-- ==== Sys2Proof/Word.lean ====
section
/-! DEFINITION. The word types of NEOTP-CORE: bytes of a buffer (rule R14), 32-bit register words (rule R60)
and 64-bit quantities (rule R66). -/

namespace Sys2Proof

/-- A byte of a byte string, 0..255 (rule R14). -/
abbrev Byte := BitVec 8

/-- A 32-bit word of the register space (rule R60). -/
abbrev Word := BitVec 32

/-- A 64-bit quantity held in two words: COUNTER, NOW_MS, DELTA (rule R66). -/
abbrev DWord := BitVec 64

end Sys2Proof
end

