-- ==== Sys2Proof/Syntax.lean ====
section
/-! DEFINITION. The commands of NEOTP-CORE: one constructor per row of spec/opcode_table.json. A command word has
no operand field (rule R80), so no constructor takes an argument: every operand comes from a register. -/

namespace Sys2Proof

/-- The five commands of rule R81. -/
inductive Instr where
  /-- GEN: the code of the explicit counter (rule R150). -/
  | gen
  /-- VERIFY: search the window around the expected counter for the token (rule R151). -/
  | verify
  /-- TGEN: the code of the time in NOW_MS (rule R171). -/
  | tgen
  /-- TVERIFY: compare the token with the code of the time in NOW_MS (rule R172). -/
  | tverify
  /-- ZEROIZE: erase the secret and the token (rule R180). -/
  | zeroize
  deriving DecidableEq, Repr

end Sys2Proof
end

