-- ==== Sys2Proof/WellFormed.lean ====
section
/-! DEFINITION. What a well-formed command is. A command carries no operand field (rule R80), so every `Instr` is
well formed; what can be ill formed is the 32-bit WORD that stands for one, and its two checks are the two ways
rule R82 lists for a word to be illegal. -/

namespace Sys2Proof

/-- Every command is well formed: it has no operand field that could be out of range (rule R80). -/
def Instr.wf : Instr → Bool
  | .gen => true
  | .verify => true
  | .tgen => true
  | .tverify => true
  | .zeroize => true

/-- The check on the field ZERO = w[31:4], which must be 0 (rule R80). -/
def CommandWord.zeroFieldClear (w : Word) : Bool := w.toNat / 16 = 0

/-- The check on the field OP = w[3:0], which must be one of the five operation codes (rules R81, R82). -/
def CommandWord.opAssigned (w : Word) : Bool := 1 ≤ w.toNat % 16 ∧ w.toNat % 16 ≤ 5

/-- A word that stands for a command passes both checks (rule R82). -/
def CommandWord.wf (w : Word) : Bool := CommandWord.zeroFieldClear w && CommandWord.opAssigned w

end Sys2Proof
end

