-- ==== Sys2Proof/Decode.lean ====
section
/-! DEFINITION. The decoder of command words, total on every 32-bit word and rejecting by name, and after it the
encoder, both written from the table of rule R81. -/

namespace Sys2Proof

/-- Why a word is no command: the two kinds of illegal encoding of rule R82. -/
inductive IllegalWord where
  /-- A bit of w[31:4] is set, whatever OP is. -/
  | zeroFieldSet
  /-- w[31:4] is 0 and OP is 0 or 6..15. -/
  | unassignedOp
  deriving DecidableEq, Repr

/-- The field OP = w[3:0] of a command word (rule R80). -/
def opField (w : Word) : BitVec 4 := w.extractLsb' 0 4

/-- The field ZERO = w[31:4] of a command word (rule R80). -/
def zeroField (w : Word) : BitVec 28 := w.extractLsb' 4 28

/-- The command a word stands for, or the name of the reason it stands for none (rules R81, R82). -/
def decode (w : Word) : Except IllegalWord Instr :=
  if zeroField w ≠ 0 then .error .zeroFieldSet
  else if opField w = 1 then .ok .gen
  else if opField w = 2 then .ok .verify
  else if opField w = 3 then .ok .tgen
  else if opField w = 4 then .ok .tverify
  else if opField w = 5 then .ok .zeroize
  else .error .unassignedOp

/-- The command word of a command (the table of rule R81). -/
def encode : Instr → Word
  | .gen => 0x00000001
  | .verify => 0x00000002
  | .tgen => 0x00000003
  | .tverify => 0x00000004
  | .zeroize => 0x00000005

/-- The 32-bit word whose bits are the low `nbits` bits of `w`, all others 0; `none` where a bit above the command
word's 32 is set (a command is one 32-bit word, rule R80). -/
def tableWord (nbits w : Nat) : Option Word :=
  if w % 2 ^ nbits < 2 ^ 32 then some (BitVec.ofNat 32 (w % 2 ^ nbits)) else none

/-- The command the decoder reads from a word numbered as spec/opcode_table.json numbers it. -/
def decodeTableWord (nbits w : Nat) : Option Instr :=
  match tableWord nbits w with
  | none => none
  | some word =>
    match decode word with
    | .ok i => some i
    | .error _ => none

end Sys2Proof
end

