-- ==== Sys2Proof/Machine/Bytes.lean ====
section
/-! DEFINITION. Byte strings (rule R14) and the one byte order of the block, big-endian (rules R65, R66): every
place where bytes become a number or a word, or a word becomes bytes, goes through this file. -/

namespace Sys2Proof.Machine

/-- `be_N(v)`: the N-byte big-endian string of v, byte j being `(v >> (8*(N-1-j))) & 0xFF` (rule R14). -/
def beBytes (n v : Nat) : List Byte :=
  (List.range n).map fun j => BitVec.ofNat 8 (v >>> (8 * (n - 1 - j)))

/-- `int_be(S)`: the number a byte string reads as, first byte most significant (rule R14). -/
def intBe (bs : List Byte) : Nat := bs.foldl (fun acc b => acc * 256 + b.toNat) 0

/-- `rep(b, n)`: n copies of byte b (rule R14). -/
def rep (b : Byte) (n : Nat) : List Byte := List.replicate n b

/-- `xor(S, T)` of strings of equal length, bytewise (rule R14). -/
def xorBytes (xs ys : List Byte) : List Byte := List.zipWith (· ^^^ ·) xs ys

/-- `S[i]`, where i is an index of S (every use in the model is; rule R104 says so for digests). -/
def byteAt (bs : List Byte) (i : Nat) : Byte := bs.getD i 0

/-- The 32-bit word at word index k of a buffer: buffer byte 4k+j is bits [31-8j : 24-8j] (rule R65). -/
def bufferWord (bs : List Byte) (k : Nat) : Word :=
  byteAt bs (4 * k) ++ byteAt bs (4 * k + 1) ++ byteAt bs (4 * k + 2) ++ byteAt bs (4 * k + 3)

/-- Byte j of a word as a buffer holds it: bits [31-8j : 24-8j] (rule R65). -/
def wordByte (v : Word) (j : Nat) : Byte := v.extractLsb' (24 - 8 * j) 8

/-- The KEY buffer after its word k is written with v (rule R62). -/
def storeWord (bs : List Byte) (k : Nat) (v : Word) : List Byte :=
  (((bs.set (4 * k) (wordByte v 0)).set (4 * k + 1) (wordByte v 1)).set (4 * k + 2) (wordByte v 2)).set (4 * k + 3)
    (wordByte v 3)

/-- The TOKEN buffer after its word k is written with v (rule R62). -/
def storeTokenWord (bs : Vector Byte 16) (k : Nat) (v : Word) : Vector Byte 16 :=
  (((bs.setIfInBounds (4 * k) (wordByte v 0)).setIfInBounds (4 * k + 1) (wordByte v 1)).setIfInBounds (4 * k + 2)
    (wordByte v 2)).setIfInBounds (4 * k + 3) (wordByte v 3)

/-- Bits [63:32] of a 64-bit register, the `_HI` word (rule R66). -/
def hiWord (x : DWord) : Word := x.extractLsb' 32 32

/-- Bits [31:0] of a 64-bit register, the `_LO` word (rule R66). -/
def loWord (x : DWord) : Word := x.extractLsb' 0 32

/-- A 64-bit register after its `_HI` word is written, the `_LO` word unchanged (rule R62). -/
def withHi (x : DWord) (v : Word) : DWord := v ++ loWord x

/-- A 64-bit register after its `_LO` word is written, the `_HI` word unchanged (rule R62). -/
def withLo (x : DWord) (v : Word) : DWord := hiWord x ++ v

end Sys2Proof.Machine
end

