-- ==== Sys2Proof/Machine/Hash.lean ====
section
/-! DEFINITION. SHA-1, SHA-256, SHA-512 and HMAC, as rules R121 to R128 define them. The spec marks these rules as its
own general knowledge, checked by execution (rule R120, assumption log 5). -/

namespace Sys2Proof.Machine

/-- The three supported hash functions (rule R122). -/
inductive Hash where
  | sha1
  | sha256
  | sha512
  deriving DecidableEq, Repr

/-- B: the block size in bytes (rule R122). -/
def Hash.blockBytes : Hash → Nat
  | .sha1 => 64
  | .sha256 => 64
  | .sha512 => 128

/-- F: the size of the length field in bytes (rule R122). -/
def Hash.lengthBytes : Hash → Nat
  | .sha1 => 8
  | .sha256 => 8
  | .sha512 => 16

/-- L: the digest length in bytes (rules R101, R122). -/
def Hash.digestBytes : Hash → Nat
  | .sha1 => 20
  | .sha256 => 32
  | .sha512 => 64

/-- z of rule R123: the smallest z ≥ 0 with (n + 1 + z + F) mod B = 0. -/
def zeroFill (n blockBytes lengthBytes : Nat) : Nat :=
  (blockBytes - (n + 1 + lengthBytes) % blockBytes) % blockBytes

/-- `Pad(msg, B, F)` (rule R123). -/
def padMessage (msg : List Byte) (blockBytes lengthBytes : Nat) : List Byte :=
  msg ++ [0x80] ++ rep 0 (zeroFill msg.length blockBytes lengthBytes) ++ beBytes lengthBytes (8 * msg.length)

/-- The blocks of a padded message, in order (rule R123). -/
def messageBlocks (blockBytes : Nat) (padded : List Byte) : List (List Byte) :=
  (List.range (padded.length / blockBytes)).map fun i => (padded.drop (blockBytes * i)).take blockBytes

/-- The first 16 words of a block, W bits each, read big-endian (rule R123). -/
def blockWords (w : Nat) (blk : List Byte) : List (BitVec w) :=
  (List.range 16).map fun t => BitVec.ofNat w (intBe ((blk.drop (w / 8 * t)).take (w / 8)))

/-- `n` more words of a message schedule that is held latest word first, each computed from those before it. -/
def extendSchedule {w : Nat} (next : List (BitVec w) → BitVec w) : Nat → List (BitVec w) → List (BitVec w)
  | 0, ws => ws
  | n + 1, ws => extendSchedule next n (next ws :: ws)

/-- W[t-k] of a schedule held latest word first, where W[t] is the word to come. -/
def wordBack {w : Nat} (ws : List (BitVec w)) (k : Nat) : BitVec w := ws.getD (k - 1) 0

/-! ### SHA-1 (rule R124) -/

/-- The working words a..e, and the hash words H0..H4. -/
structure Sha1State where
  a : BitVec 32
  b : BitVec 32
  c : BitVec 32
  d : BitVec 32
  e : BitVec 32
  deriving DecidableEq, Repr

/-- The initial H0..H4. -/
def sha1Init : Sha1State := ⟨0x67452301, 0xEFCDAB89, 0x98BADCFE, 0x10325476, 0xC3D2E1F0⟩

/-- W[t] for t ≥ 16. -/
def sha1NextWord (ws : List (BitVec 32)) : BitVec 32 :=
  (wordBack ws 3 ^^^ wordBack ws 8 ^^^ wordBack ws 14 ^^^ wordBack ws 16).rotateLeft 1

/-- W[0..79] of a block. -/
def sha1Schedule (blk : List Byte) : List (BitVec 32) :=
  (extendSchedule sha1NextWord 64 (blockWords 32 blk).reverse).reverse

/-- The function f of round t. -/
def sha1F (t : Nat) (b c d : BitVec 32) : BitVec 32 :=
  if t ≤ 19 then (b &&& c) ||| (~~~b &&& d)
  else if t ≤ 39 then b ^^^ c ^^^ d
  else if t ≤ 59 then (b &&& c) ||| (b &&& d) ||| (c &&& d)
  else b ^^^ c ^^^ d

/-- The constant K of round t. -/
def sha1K (t : Nat) : BitVec 32 :=
  if t ≤ 19 then 0x5A827999
  else if t ≤ 39 then 0x6ED9EBA1
  else if t ≤ 59 then 0x8F1BBCDC
  else 0xCA62C1D6

/-- Round t with message word W[t]. -/
def sha1Round (s : Sha1State) (wt : BitVec 32 × Nat) : Sha1State where
  a := s.a.rotateLeft 5 + sha1F wt.2 s.b s.c s.d + s.e + sha1K wt.2 + wt.1
  b := s.a
  c := s.b.rotateLeft 30
  d := s.c
  e := s.d

/-- The effect of one block on H0..H4. -/
def sha1Block (h : Sha1State) (blk : List Byte) : Sha1State :=
  let r := (sha1Schedule blk).zipIdx.foldl sha1Round h
  ⟨h.a + r.a, h.b + r.b, h.c + r.c, h.d + r.d, h.e + r.e⟩

/-- H0..H4 as the 20-byte digest. -/
def Sha1State.bytes (h : Sha1State) : List Byte :=
  beBytes 4 h.a.toNat ++ beBytes 4 h.b.toNat ++ beBytes 4 h.c.toNat ++ beBytes 4 h.d.toNat ++ beBytes 4 h.e.toNat

/-- `SHA1(msg)` (rule R124). -/
def sha1Digest (msg : List Byte) : List Byte :=
  ((messageBlocks 64 (padMessage msg 64 8)).foldl sha1Block sha1Init).bytes

/-! ### SHA-256 and SHA-512 (rules R125 to R128): one algorithm, two parameter sets -/

/-- The working words a..h, and the hash words H0..H7. -/
structure Sha2State (w : Nat) where
  a : BitVec w
  b : BitVec w
  c : BitVec w
  d : BitVec w
  e : BitVec w
  f : BitVec w
  g : BitVec w
  h : BitVec w
  deriving DecidableEq, Repr

/-- What rule R128 changes of rule R126's algorithm: block and length-field sizes, the amounts of the four sigma
functions (for `ssig`, two rotations and a shift), the round constants and the initial words. -/
structure Sha2Params (w : Nat) where
  blockBytes : Nat
  lengthBytes : Nat
  bsig0 : Nat × Nat × Nat
  bsig1 : Nat × Nat × Nat
  ssig0 : Nat × Nat × Nat
  ssig1 : Nat × Nat × Nat
  k : List (BitVec w)
  init : Sha2State w
  deriving DecidableEq, Repr

/-- Ch(x,y,z) (rule R125). -/
def ch {w : Nat} (x y z : BitVec w) : BitVec w := (x &&& y) ^^^ (~~~x &&& z)

/-- Maj(x,y,z) (rule R125). -/
def maj {w : Nat} (x y z : BitVec w) : BitVec w := (x &&& y) ^^^ (x &&& z) ^^^ (y &&& z)

/-- BSIG0 and BSIG1: the exclusive or of three right rotations (rules R125, R127). -/
def bigSigma {w : Nat} (n : Nat × Nat × Nat) (x : BitVec w) : BitVec w :=
  x.rotateRight n.1 ^^^ x.rotateRight n.2.1 ^^^ x.rotateRight n.2.2

/-- SSIG0 and SSIG1: the exclusive or of two right rotations and a right shift (rules R125, R127). -/
def smallSigma {w : Nat} (n : Nat × Nat × Nat) (x : BitVec w) : BitVec w :=
  x.rotateRight n.1 ^^^ x.rotateRight n.2.1 ^^^ (x >>> n.2.2)

/-- W[t] for t ≥ 16 (rule R126). -/
def sha2NextWord {w : Nat} (p : Sha2Params w) (ws : List (BitVec w)) : BitVec w :=
  smallSigma p.ssig1 (wordBack ws 2) + wordBack ws 7 + smallSigma p.ssig0 (wordBack ws 15) + wordBack ws 16

/-- W[0..rounds-1] of a block; there is one round per constant (rules R126, R128). -/
def sha2Schedule {w : Nat} (p : Sha2Params w) (blk : List Byte) : List (BitVec w) :=
  (extendSchedule (sha2NextWord p) (p.k.length - 16) (blockWords w blk).reverse).reverse

/-- One round with constant K[t] and message word W[t] (rule R126). -/
def sha2Round {w : Nat} (p : Sha2Params w) (s : Sha2State w) (kw : BitVec w × BitVec w) : Sha2State w :=
  let t1 := s.h + bigSigma p.bsig1 s.e + ch s.e s.f s.g + kw.1 + kw.2
  let t2 := bigSigma p.bsig0 s.a + maj s.a s.b s.c
  { a := t1 + t2, b := s.a, c := s.b, d := s.c, e := s.d + t1, f := s.e, g := s.f, h := s.g }

/-- The effect of one block on H0..H7 (rule R126). -/
def sha2Block {w : Nat} (p : Sha2Params w) (h : Sha2State w) (blk : List Byte) : Sha2State w :=
  let r := (p.k.zip (sha2Schedule p blk)).foldl (sha2Round p) h
  ⟨h.a + r.a, h.b + r.b, h.c + r.c, h.d + r.d, h.e + r.e, h.f + r.f, h.g + r.g, h.h + r.h⟩

/-- H0..H7 as digest bytes, w/8 bytes a word (rules R126, R128). -/
def Sha2State.bytes {w : Nat} (h : Sha2State w) : List Byte :=
  beBytes (w / 8) h.a.toNat ++ beBytes (w / 8) h.b.toNat ++ beBytes (w / 8) h.c.toNat ++ beBytes (w / 8) h.d.toNat ++
    beBytes (w / 8) h.e.toNat ++ beBytes (w / 8) h.f.toNat ++ beBytes (w / 8) h.g.toNat ++ beBytes (w / 8) h.h.toNat

/-- The hash of a message under a parameter set (rules R126, R128). -/
def sha2 {w : Nat} (p : Sha2Params w) (msg : List Byte) : List Byte :=
  ((messageBlocks p.blockBytes (padMessage msg p.blockBytes p.lengthBytes)).foldl (sha2Block p) p.init).bytes

/-- K256[0..63], eight per line (rule R126). -/
def k256 : List (BitVec 32) :=
  [0x428a2f98, 0x71374491, 0xb5c0fbcf, 0xe9b5dba5, 0x3956c25b, 0x59f111f1, 0x923f82a4, 0xab1c5ed5] ++
  [0xd807aa98, 0x12835b01, 0x243185be, 0x550c7dc3, 0x72be5d74, 0x80deb1fe, 0x9bdc06a7, 0xc19bf174] ++
  [0xe49b69c1, 0xefbe4786, 0x0fc19dc6, 0x240ca1cc, 0x2de92c6f, 0x4a7484aa, 0x5cb0a9dc, 0x76f988da] ++
  [0x983e5152, 0xa831c66d, 0xb00327c8, 0xbf597fc7, 0xc6e00bf3, 0xd5a79147, 0x06ca6351, 0x14292967] ++
  [0x27b70a85, 0x2e1b2138, 0x4d2c6dfc, 0x53380d13, 0x650a7354, 0x766a0abb, 0x81c2c92e, 0x92722c85] ++
  [0xa2bfe8a1, 0xa81a664b, 0xc24b8b70, 0xc76c51a3, 0xd192e819, 0xd6990624, 0xf40e3585, 0x106aa070] ++
  [0x19a4c116, 0x1e376c08, 0x2748774c, 0x34b0bcb5, 0x391c0cb3, 0x4ed8aa4a, 0x5b9cca4f, 0x682e6ff3] ++
  [0x748f82ee, 0x78a5636f, 0x84c87814, 0x8cc70208, 0x90befffa, 0xa4506ceb, 0xbef9a3f7, 0xc67178f2]

/-- The parameters of SHA-256 (rules R122, R125, R126). -/
def sha256Params : Sha2Params 32 where
  blockBytes := 64
  lengthBytes := 8
  bsig0 := (2, 13, 22)
  bsig1 := (6, 11, 25)
  ssig0 := (7, 18, 3)
  ssig1 := (17, 19, 10)
  k := k256
  init := ⟨0x6a09e667, 0xbb67ae85, 0x3c6ef372, 0xa54ff53a, 0x510e527f, 0x9b05688c, 0x1f83d9ab, 0x5be0cd19⟩

/-- K512[0..79], four per line (rule R128). -/
def k512 : List (BitVec 64) :=
  [0x428a2f98d728ae22, 0x7137449123ef65cd, 0xb5c0fbcfec4d3b2f, 0xe9b5dba58189dbbc] ++
  [0x3956c25bf348b538, 0x59f111f1b605d019, 0x923f82a4af194f9b, 0xab1c5ed5da6d8118] ++
  [0xd807aa98a3030242, 0x12835b0145706fbe, 0x243185be4ee4b28c, 0x550c7dc3d5ffb4e2] ++
  [0x72be5d74f27b896f, 0x80deb1fe3b1696b1, 0x9bdc06a725c71235, 0xc19bf174cf692694] ++
  [0xe49b69c19ef14ad2, 0xefbe4786384f25e3, 0x0fc19dc68b8cd5b5, 0x240ca1cc77ac9c65] ++
  [0x2de92c6f592b0275, 0x4a7484aa6ea6e483, 0x5cb0a9dcbd41fbd4, 0x76f988da831153b5] ++
  [0x983e5152ee66dfab, 0xa831c66d2db43210, 0xb00327c898fb213f, 0xbf597fc7beef0ee4] ++
  [0xc6e00bf33da88fc2, 0xd5a79147930aa725, 0x06ca6351e003826f, 0x142929670a0e6e70] ++
  [0x27b70a8546d22ffc, 0x2e1b21385c26c926, 0x4d2c6dfc5ac42aed, 0x53380d139d95b3df] ++
  [0x650a73548baf63de, 0x766a0abb3c77b2a8, 0x81c2c92e47edaee6, 0x92722c851482353b] ++
  [0xa2bfe8a14cf10364, 0xa81a664bbc423001, 0xc24b8b70d0f89791, 0xc76c51a30654be30] ++
  [0xd192e819d6ef5218, 0xd69906245565a910, 0xf40e35855771202a, 0x106aa07032bbd1b8] ++
  [0x19a4c116b8d2d0c8, 0x1e376c085141ab53, 0x2748774cdf8eeb99, 0x34b0bcb5e19b48a8] ++
  [0x391c0cb3c5c95a63, 0x4ed8aa4ae3418acb, 0x5b9cca4f7763e373, 0x682e6ff3d6b2b8a3] ++
  [0x748f82ee5defb2fc, 0x78a5636f43172f60, 0x84c87814a1f0ab72, 0x8cc702081a6439ec] ++
  [0x90befffa23631e28, 0xa4506cebde82bde9, 0xbef9a3f7b2c67915, 0xc67178f2e372532b] ++
  [0xca273eceea26619c, 0xd186b8c721c0c207, 0xeada7dd6cde0eb1e, 0xf57d4f7fee6ed178] ++
  [0x06f067aa72176fba, 0x0a637dc5a2c898a6, 0x113f9804bef90dae, 0x1b710b35131c471b] ++
  [0x28db77f523047d84, 0x32caab7b40c72493, 0x3c9ebe0a15c9bebc, 0x431d67c49c100d4c] ++
  [0x4cc5d4becb3e42b6, 0x597f299cfc657e2a, 0x5fcb6fab3ad6faec, 0x6c44198c4a475817]

/-- The parameters of SHA-512 (rules R122, R127, R128). -/
def sha512Params : Sha2Params 64 where
  blockBytes := 128
  lengthBytes := 16
  bsig0 := (28, 34, 39)
  bsig1 := (14, 18, 41)
  ssig0 := (1, 8, 7)
  ssig1 := (19, 61, 6)
  k := k512
  init := ⟨0x6a09e667f3bcc908, 0xbb67ae8584caa73b, 0x3c6ef372fe94f82b, 0xa54ff53a5f1d36f1,
    0x510e527fade682d1, 0x9b05688c2b3e6c1f, 0x1f83d9abfb41bd6b, 0x5be0cd19137e2179⟩

/-- `SHA256(msg)` (rule R126). -/
def sha256Digest (msg : List Byte) : List Byte := sha2 sha256Params msg

/-- `SHA512(msg)` (rule R128). -/
def sha512Digest (msg : List Byte) : List Byte := sha2 sha512Params msg

/-- The hash function h selects (rule R122). -/
def Hash.digest : Hash → List Byte → List Byte
  | .sha1 => sha1Digest
  | .sha256 => sha256Digest
  | .sha512 => sha512Digest

/-- k0 of rule R121: the key, hashed first if it is longer than a block, zero-padded to one block. -/
def hmacKey (h : Hash) (key : List Byte) : List Byte :=
  let k := if key.length > h.blockBytes then h.digest key else key
  k ++ rep 0 (h.blockBytes - k.length)

/-- `HMAC(h, key, msg)` (rule R121). -/
def hmac (h : Hash) (key msg : List Byte) : List Byte :=
  h.digest (xorBytes (hmacKey h key) (rep 0x5C h.blockBytes) ++
    h.digest (xorBytes (hmacKey h key) (rep 0x36 h.blockBytes) ++ msg))

end Sys2Proof.Machine
end

