-- ==== Sys2Proof/Config.lean ====
section
/-! DEFINITION. The implementation parameters of rule R11 that the spec fixes, and the range of the one it leaves
open, KEY_MAX. KEY_MAX itself is the length of the KEY buffer that a state carries (`Machine.State.keyMax`), so
that every claim about all states is a claim about every KEY_MAX (assumption log 1). -/

namespace Sys2Proof.Config

/-- The values rule R11 allows an instance to fix for KEY_MAX: a multiple of 4 with 4 ≤ KEY_MAX ≤ 3840. -/
abbrev KeyMaxLegal (keyMax : Nat) : Prop := keyMax % 4 = 0 ∧ 4 ≤ keyMax ∧ keyMax ≤ 3840

/-- The KEY_MAX rule R11 suggests, used by `Machine.State.reset` only. DESIGN CHOICE (assumption log 1). -/
abbrev suggestedKeyMax : Nat := 256

/-- DEFAULT_HASH: the selector of SHA-1 (rules R11, R28). -/
abbrev defaultHash : BitVec 2 := 0

/-- DEFAULT_DIGITS (rules R11, R28). -/
abbrev defaultDigits : BitVec 4 := 6

/-- DEFAULT_WINDOW (rules R11, R23). -/
abbrev defaultWindow : Word := 50

/-- DEFAULT_TIMESTEP, seconds (rules R11, R24). -/
abbrev defaultTimestep : Word := 30

end Sys2Proof.Config
end

