-- ==== Sys2Proof/Machine/Bus.lean ====
section
/-! DEFINITION. What the host does to the block and what the bus answers: the host's accesses, reset, and the
engine's turn, as the events of the one total order of rule R71; and the register map of rule R20 as names with
offsets. -/

namespace Sys2Proof.Machine

/-- One event of the total order of host accesses, completion steps and resets (rules R71, R197).
A state's agenda lists the events still to come, so that every interleaving is some agenda. -/
inductive Event where
  /-- The host reads `width` bytes at byte offset `off` of the register space (rule R61; refused unless rule R67
  allows it). -/
  | read (width off : Nat)
  /-- The host writes `width` bytes at byte offset `off` (rule R62; refused unless rule R67 allows it). -/
  | write (width off : Nat) (value : Word)
  /-- The platform resets the block (rule R210). -/
  | reset
  /-- The engine's turn: its completion step if one is enabled (rule R85), else nothing. -/
  | engine
  deriving DecidableEq, Repr

/-- What the bus last answered to the host. The model's own field, no register of the block (assumption log 3). -/
inductive BusReply where
  /-- No access has been answered since reset. -/
  | none
  /-- The 32-bit value of an accepted read (rule R61). -/
  | data (value : Word)
  /-- A delivered write, whether it had an effect or was ignored: the host is told nothing more (rule R213). -/
  | written
  /-- The access was refused and carries no value (rule R67). -/
  | refused
  deriving DecidableEq, Repr

/-- The register names of rule R20. `tokenW k`, `codeW k` and `keyW k` are TOKEN_Wk, CODE_Wk and KEY_Wk (rule R89). -/
inductive Reg where
  | cmd
  | status
  | cfg
  | window
  | counterHi
  | counterLo
  | timestep
  | nowMsHi
  | nowMsLo
  | keyLen
  | tokenLen
  | tokenW (k : Nat)
  | codeLen
  | codeW (k : Nat)
  | deltaHi
  | deltaLo
  | keyW (k : Nat)
  deriving DecidableEq, Repr

/-- The byte offset of a register (rules R20, R89). -/
def Reg.offset : Reg → Nat
  | .cmd => 0x000
  | .status => 0x004
  | .cfg => 0x008
  | .window => 0x00C
  | .counterHi => 0x010
  | .counterLo => 0x014
  | .timestep => 0x018
  | .nowMsHi => 0x020
  | .nowMsLo => 0x024
  | .keyLen => 0x028
  | .tokenLen => 0x02C
  | .tokenW k => 0x030 + 4 * k
  | .codeLen => 0x040
  | .codeW k => 0x044 + 4 * k
  | .deltaHi => 0x050
  | .deltaLo => 0x054
  | .keyW k => 0x100 + 4 * k

/-- A register name that the map of rule R20 has, on a block with `keyMax` bytes of KEY. -/
def Reg.present (keyMax : Nat) : Reg → Bool
  | .tokenW k => k < 4
  | .codeW k => k < 3
  | .keyW k => 4 * k < keyMax
  | _ => true

/-- The registers of rule R20's table below the KEY words. -/
def fixedRegs : List Reg :=
  [.cmd, .status, .cfg, .window, .counterHi, .counterLo, .timestep, .nowMsHi, .nowMsLo, .keyLen, .tokenLen] ++
  [.tokenW 0, .tokenW 1, .tokenW 2, .tokenW 3, .codeLen, .codeW 0, .codeW 1, .codeW 2, .deltaHi, .deltaLo]

/-- The register at an aligned offset, on a block with `keyMax` bytes of KEY; `none` at a reserved offset
(rules R20, R64). -/
def regAt (keyMax off : Nat) : Option Reg :=
  if 0x100 ≤ off ∧ off < 0x100 + keyMax then some (.keyW ((off - 0x100) / 4))
  else fixedRegs.find? fun r => r.offset = off

end Sys2Proof.Machine
end

