-- ==== Sys2Proof/Machine/State.lean ====
section
/-! DEFINITION. The state of NEOTP-CORE: every register of rule R20 ("the complete architectural state ... and
nothing else"), and beside them the model's own two fields, the agenda of events to come and the bus's last answer.
Fault and Refusal, and the state after reset (rule R38). -/

namespace Sys2Proof.Machine

/-- The state. The first eighteen fields are the registers of rule R20, each with the bits the rule keeps; reserved
bits hold no state (rule R64) and have no field. The last two are the model's own (assumption log 3). -/
structure State where
  /-- CMD, the last accepted command word (rule R29). -/
  cmd : Word
  /-- STATUS.BUSY (rule R30). -/
  busy : Bool
  /-- STATUS.DONE (rule R30). -/
  done : Bool
  /-- STATUS.MATCHED (rule R30). -/
  matched : Bool
  /-- STATUS.ERR, bits 7..4 (rules R30, R190). -/
  err : BitVec 4
  /-- CFG.HASH, bits 1..0, stored as written (rule R28). -/
  cfgHash : BitVec 2
  /-- CFG.DIGITS, bits 11..8, stored as written (rule R28). -/
  cfgDigits : BitVec 4
  /-- WINDOW, read as signed (rule R23). -/
  window : Word
  /-- COUNTER, read as signed (rule R22). -/
  counter : DWord
  /-- TIMESTEP, unsigned seconds (rule R24). -/
  timestep : Word
  /-- NOW_MS, signed milliseconds (rule R25). -/
  nowMs : DWord
  /-- KEY_LEN, bits 15..0 (rule R32). -/
  keyLen : BitVec 16
  /-- KEY, a buffer of KEY_MAX bytes: its length IS the instance's KEY_MAX (rule R32, assumption log 1). -/
  key : List Byte
  /-- TOKEN_LEN, bits 7..0 (rule R34). -/
  tokenLen : BitVec 8
  /-- TOKEN, a buffer of 16 bytes (rule R34). -/
  token : Vector Byte 16
  /-- CODE_LEN, bits 3..0 (rule R35). -/
  codeLen : BitVec 4
  /-- CODE, a buffer of 12 bytes (rule R35). -/
  code : Vector Byte 12
  /-- DELTA, read as signed (rule R26). -/
  delta : DWord
  /-- The model's own: the events still to come of the total order of rule R71, the next one first. -/
  agenda : List Event
  /-- The model's own: what the bus last answered to the host. -/
  reply : BusReply
  deriving DecidableEq, Repr

/-- KEY_MAX of the instance a state belongs to (rules R11, R32). No step changes it. -/
def State.keyMax (s : State) : Nat := s.key.length

/-- Why the machine stops with a fault: never. The block's errors are reported in STATUS.ERR and the block goes on
(rule R193), and it "cannot hang, deadlock or wait for an external event" (rule R221), so there is no
constructor. Safe: a claim that no step faults is what the spec says. -/
inductive Fault where
  deriving DecidableEq, Repr

/-- Why a step has no meaning. No step of this model answers one: every row of the opcode table has its meaning, every other
command word raises IllegalCommand (rule R181), and a refused bus access is a next state with the answer
`BusReply.refused` (rules R67, R205). -/
inductive Refusal where
  /-- An instruction that has no meaning yet, by its mnemonic. Raised by no arm of `exec`. Safe: it stops the run. -/
  | notModelled (mnemonic : String)
  deriving DecidableEq, Repr

/-- The machine after reset (rule R38): every register at the value in the last column of rule R20, KEY of the
suggested size, no event to come and no access answered. -/
def State.reset : State where
  cmd := 0
  busy := false
  done := false
  matched := false
  err := 0
  cfgHash := Config.defaultHash
  cfgDigits := Config.defaultDigits
  window := Config.defaultWindow
  counter := 0
  timestep := Config.defaultTimestep
  nowMs := 0
  keyLen := 0
  key := List.replicate Config.suggestedKeyMax 0
  tokenLen := 0
  token := Vector.replicate 16 0
  codeLen := 0
  code := Vector.replicate 12 0
  delta := 0
  agenda := []
  reply := .none

end Sys2Proof.Machine
end

