-- ==== Sys2Proof/Machine/Operands.lean ====
section
/-! DEFINITION. Operand assembly: every operand form of rule R83. Nothing else reads an operand register on behalf of a
command. -/

namespace Sys2Proof.Machine

/-- key = KEY[0 .. KEY_LEN-1] (rules R32, R83), used only where 1 ≤ KEY_LEN ≤ KEY_MAX. -/
def State.secret (s : State) : List Byte := s.key.take s.keyLen.toNat

/-- hash = CFG.HASH: 0 SHA-1, 1 SHA-256, 2 SHA-512, 3 no hash (rules R83, R86). -/
def hashOfSelector (h : BitVec 2) : Option Hash :=
  if h = 0 then some .sha1
  else if h = 1 then some .sha256
  else if h = 2 then some .sha512
  else none

/-- digits = CFG.DIGITS, unsigned (rule R83). -/
def State.digits (s : State) : Nat := s.cfgDigits.toNat

/-- counter = signed_64(COUNTER) (rules R22, R83). -/
def State.counterInt (s : State) : Int := s.counter.toInt

/-- window = signed_32(WINDOW) (rules R23, R83). -/
def State.windowInt (s : State) : Int := s.window.toInt

/-- timestep = TIMESTEP, unsigned (rules R24, R83). -/
def State.timestepNat (s : State) : Nat := s.timestep.toNat

/-- now_ms = signed_64(NOW_MS) (rules R25, R83). -/
def State.nowMsInt (s : State) : Int := s.nowMs.toInt

/-- tok_len = TOKEN_LEN, unsigned (rules R34, R83). -/
def State.tokLen (s : State) : Nat := s.tokenLen.toNat

/-- The inputs every generating or verifying command has once `Validate` has passed (rule R191). -/
structure Inputs where
  /-- The secret. -/
  key : List Byte
  /-- The hash function. -/
  hash : Hash
  /-- The digit count. -/
  digits : Nat
  deriving DecidableEq, Repr

end Sys2Proof.Machine
end

