-- ==== Sys2Proof/Machine/Engine.lean ====
section
/-! DEFINITION. The HMAC-truncate engine: the pure functions of rules R100 to R108, whose steps "must be bit-exact", and
the buffer form of a code. -/

namespace Sys2Proof.Machine

/-- `CounterBytes(c)`: the 8-byte big-endian two's-complement form of a counter (rule R100). -/
def counterBytes (c : Int) : List Byte := beBytes 8 (BitVec.ofInt 64 c).toNat

/-- `Digest(h, key, c)` (rule R101). -/
def counterDigest (h : Hash) (key : List Byte) (c : Int) : List Byte := hmac h key (counterBytes c)

/-- `Offset(d)`: the low nibble of the digest's last byte (rule R102). -/
def digestOffset (d : List Byte) : Nat := (byteAt d (d.length - 1)).toNat &&& 0x0F

/-- `Value(d)`: the 31-bit value of dynamic truncation (rule R103). -/
def digestValue (d : List Byte) : Nat :=
  let o := digestOffset d
  (((byteAt d o).toNat &&& 0x7F) <<< 24) ||| ((byteAt d (o + 1)).toNat <<< 16) ||| ((byteAt d (o + 2)).toNat <<< 8) |||
    (byteAt d (o + 3)).toNat

/-- `CodeNumber(v, n)` (rule R105). -/
def codeNumber (v n : Nat) : Nat := v % 10 ^ n

/-- `Decimal(m, n)`: n ASCII digits, most significant first, zero-padded on the left (rules R88, R106). -/
def decimal (m n : Nat) : List Byte :=
  (List.range n).map fun j => BitVec.ofNat 8 (0x30 + m / 10 ^ (n - 1 - j) % 10)

/-- `Otp(key, c, h, n)` (rule R108). -/
def otp (key : List Byte) (c : Int) (h : Hash) (n : Nat) : List Byte :=
  decimal (codeNumber (digestValue (counterDigest h key c)) n) n

/-- `TokenEqual(tok_len, TOKEN, code)`: same length and same bytes (rule R107). -/
def tokenEqual (tokLen : Nat) (token : Vector Byte 16) (code : List Byte) : Bool :=
  tokLen = code.length ∧ ∀ j, j < code.length → token.toList[j]? = code[j]?

/-- The CODE buffer that holds a code: its bytes, then zeros up to 12 (rules R35, R150). -/
def codeBuffer (code : List Byte) : Vector Byte 12 := Vector.ofFn fun j => byteAt code j.val

/-- CODE_LEN <- digits and CODE <- the code, zero-filled: what GEN and TGEN write (rules R150, R171). -/
def State.writeCode (digits : Nat) (code : List Byte) (s : State) : State :=
  { s with codeLen := BitVec.ofNat 4 digits, code := codeBuffer code }

end Sys2Proof.Machine
end

