-- ==== Sys2Proof/Machine/Flags.lean ====
section
/-! DEFINITION. The block's flags, the fields of STATUS (rule R30): the word a host reads, the error codes, and the
updates of flags that a completion step makes. -/

namespace Sys2Proof.Machine

/-- The errors of rule R190. -/
inductive ErrorKind where
  | invalidSecret
  | unsupportedHash
  | invalidDigits
  | invalidWindow
  | invalidTimeStep
  | illegalCommand
  deriving DecidableEq, Repr

/-- The code an error has in STATUS.ERR (rule R190). -/
def ErrorKind.code : ErrorKind → BitVec 4
  | .invalidSecret => 1
  | .unsupportedHash => 2
  | .invalidDigits => 3
  | .invalidWindow => 4
  | .invalidTimeStep => 5
  | .illegalCommand => 6

/-- A flag as the number 0 or 1. -/
def flagBit (b : Bool) : Nat := if b then 1 else 0

/-- STATUS as a host reads it: BUSY | DONE<<1 | MATCHED<<2 | ERR<<4, all other bits 0 (rules R30, R61). -/
def State.statusWord (s : State) : Word :=
  BitVec.ofNat 32 (flagBit s.busy ||| flagBit s.done <<< 1 ||| flagBit s.matched <<< 2 ||| s.err.toNat <<< 4)

/-- STATUS.BUSY <- 0 and STATUS.DONE <- 1, what every completion step does in the same transition (rule R85). -/
def State.complete (s : State) : State := { s with busy := false, done := true }

/-- STATUS.MATCHED <- m, what TVERIFY writes (rule R172). -/
def State.writeMatched (m : Bool) (s : State) : State := { s with matched := m }

/-- STATUS.MATCHED <- m and DELTA <- d, what VERIFY writes (rule R151). -/
def State.writeVerdict (m : Bool) (d : DWord) (s : State) : State := { s with matched := m, delta := d }

end Sys2Proof.Machine
end

