-- ==== Sys2Proof/Machine/Ops.lean ====
section
/-! DEFINITION. The named operations over the registers: the host's reads and writes of the register space (rules R61
to R67), command issue (rule R63), reset (rule R210), the checks a command makes first (rule R191), and error entry,
the block's one way of taking an exception (rule R193). There is no return from an error (rule R195): STATUS.ERR is
cleared by the next command issue, `State.issue`, or by reset. -/

namespace Sys2Proof.Machine

/-! ### Errors -/

/-- Error entry, what `raise E` does: STATUS.ERR <- code(E), STATUS.BUSY <- 0, STATUS.DONE <- 1 and nothing else (rule R193). -/
def State.raise (e : ErrorKind) (s : State) : State := { s with err := e.code, busy := false, done := true }

/-- `Validate(cmd)` (rules R191, R192): the first error in the order of the rule, or the inputs that passed. -/
def validate (cmd : Instr) (s : State) : Except ErrorKind Inputs :=
  if s.keyLen.toNat = 0 ∨ s.keyMax < s.keyLen.toNat then .error .invalidSecret
  else
    match hashOfSelector s.cfgHash with
    | none => .error .unsupportedHash
    | some h =>
      if s.digits < 1 ∨ 10 < s.digits then .error .invalidDigits
      else if cmd = .verify ∧ s.windowInt < 0 then .error .invalidWindow
      else if (cmd = .tgen ∨ cmd = .tverify) ∧ s.timestepNat = 0 then .error .invalidTimeStep
      else .ok { key := s.secret, hash := h, digits := s.digits }

/-- The completion step of a command that validates: error entry, or `effect` of the inputs with BUSY and DONE
(rules R85, R191, R193). -/
def withInputs (cmd : Instr) (s : State) (effect : Inputs → State) : Host.Outcome State Fault Refusal :=
  match validate cmd s with
  | .error e => .next (s.raise e)
  | .ok inputs => .next (effect inputs).complete

/-! ### Command issue and reset -/

/-- Command issue with the word v (rule R63). -/
def State.issue (v : Word) (s : State) : State :=
  { s with
    cmd := v, busy := true, done := false, matched := false, err := 0, codeLen := 0, code := Vector.replicate 12 0,
    delta := 0 }

/-- Reset: every register gets its reset value, in any state (rule R210). KEY keeps its size, and the events to come
stay to come: a reset changes neither the instance nor what the host does next. -/
def State.resetBlock (s : State) : State :=
  { State.reset with key := rep 0 s.keyMax, agenda := s.agenda }

/-! ### Register reads and writes -/

/-- The value of a register as a host reads it (rule R61). KEY is write-only and reads 0 (rule R33). -/
def State.readReg (s : State) : Reg → Word
  | .cmd => s.cmd
  | .status => s.statusWord
  | .cfg => BitVec.ofNat 32 (s.cfgHash.toNat ||| s.cfgDigits.toNat <<< 8)
  | .window => s.window
  | .counterHi => hiWord s.counter
  | .counterLo => loWord s.counter
  | .timestep => s.timestep
  | .nowMsHi => hiWord s.nowMs
  | .nowMsLo => loWord s.nowMs
  | .keyLen => s.keyLen.setWidth 32
  | .tokenLen => s.tokenLen.setWidth 32
  | .tokenW k => bufferWord s.token.toList k
  | .codeLen => s.codeLen.setWidth 32
  | .codeW k => bufferWord s.code.toList k
  | .deltaHi => hiWord s.delta
  | .deltaLo => loWord s.delta
  | .keyW _ => 0

/-- A host write of v to a register while STATUS.BUSY = 0 (rule R62). -/
def State.writeReg (s : State) (r : Reg) (v : Word) : State :=
  match r with
  | .cmd => s.issue v
  | .status => s
  | .cfg => { s with cfgHash := v.extractLsb' 0 2, cfgDigits := v.extractLsb' 8 4 }
  | .window => { s with window := v }
  | .counterHi => { s with counter := withHi s.counter v }
  | .counterLo => { s with counter := withLo s.counter v }
  | .timestep => { s with timestep := v }
  | .nowMsHi => { s with nowMs := withHi s.nowMs v }
  | .nowMsLo => { s with nowMs := withLo s.nowMs v }
  | .keyLen => { s with keyLen := v.extractLsb' 0 16 }
  | .tokenLen => { s with tokenLen := v.extractLsb' 0 8 }
  | .tokenW k => { s with token := storeTokenWord s.token k v }
  | .codeLen => s
  | .codeW _ => s
  | .deltaHi => s
  | .deltaLo => s
  | .keyW k => { s with key := storeWord s.key k v }

/-- `MemRead(off, 4)` at an aligned offset of the space (rule R61): 0 at a reserved offset. -/
def State.memRead (s : State) (off : Nat) : Word :=
  match regAt s.keyMax off with
  | some r => s.readReg r
  | none => 0

/-- `MemWrite(off, 4, v)` at an aligned offset of the space (rule R62): ignored entirely while BUSY, and at a
reserved offset. -/
def State.memWrite (s : State) (off : Nat) (v : Word) : State :=
  if s.busy then s
  else
    match regAt s.keyMax off with
    | some r => s.writeReg r v
    | none => s

/-! ### Host accesses -/

/-- The only access the block implements: an aligned 32-bit word of the space (rule R67). -/
def accessOk (width off : Nat) : Bool := width = 4 ∧ off % 4 = 0 ∧ off < 0x1000

/-- The bus's answer to the host. -/
def State.answer (r : BusReply) (s : State) : State := { s with reply := r }

/-- A host read: the value with no state change, or a refusal with no value (rules R61, R67). -/
def State.hostRead (width off : Nat) (s : State) : State :=
  if accessOk width off then s.answer (.data (s.memRead off)) else s.answer .refused

/-- A host write, or a refusal that changes nothing (rules R62, R67, R205). -/
def State.hostWrite (width off : Nat) (v : Word) (s : State) : State :=
  if accessOk width off then (s.memWrite off v).answer .written else s.answer .refused

/-- The state once its next event is taken off the agenda. -/
def State.withAgenda (rest : List Event) (s : State) : State := { s with agenda := rest }

end Sys2Proof.Machine
end

