-- ==== Sys2Proof/Machine/Hotp.lean ====
section
/-! DEFINITION. The counter-based commands GEN and VERIFY (rules R150 to R156). -/

namespace Sys2Proof.Machine

/-- GEN: the code of COUNTER into CODE_LEN and CODE (rule R150). -/
def execGen (s : State) : Host.Outcome State Fault Refusal :=
  withInputs .gen s fun x => s.writeCode x.digits (otp x.key s.counterInt x.hash x.digits)

/-- The least candidate, max(counter - window, -2^63) (rule R153). -/
def searchLo (counter window : Int) : Int := max (counter - window) (-2 ^ 63)

/-- The greatest candidate, min(counter + window, 2^63 - 1) (rule R153). -/
def searchHi (counter window : Int) : Int := min (counter + window) (2 ^ 63 - 1)

/-- How many candidates there are from lo to hi. -/
def candidateCount (lo hi : Int) : Nat := (hi - lo + 1).toNat

/-- The first of the n integers from i upwards that is a hit: the ascending search of rule R152. -/
def firstHit (hit : Int → Bool) : Nat → Int → Option Int
  | 0, _ => none
  | n + 1, i => if hit i then some i else firstHit hit n (i + 1)

/-- Whether candidate i's code equals the token (rule R151). -/
def candidateHit (s : State) (x : Inputs) (i : Int) : Bool :=
  tokenEqual s.tokLen s.token (otp x.key i x.hash x.digits)

/-- The counter VERIFY matches: the least candidate whose code equals the token (rules R151, R152, R153). -/
def windowSearch (s : State) (x : Inputs) : Option Int :=
  firstHit (candidateHit s x)
    (candidateCount (searchLo s.counterInt s.windowInt) (searchHi s.counterInt s.windowInt))
    (searchLo s.counterInt s.windowInt)

/-- VERIFY: MATCHED and DELTA from the window search (rule R151). -/
def execVerify (s : State) : Host.Outcome State Fault Refusal :=
  withInputs .verify s fun x =>
    match windowSearch s x with
    | some i => s.writeVerdict true (BitVec.ofInt 64 (i - s.counterInt))
    | none => s.writeVerdict false 0

end Sys2Proof.Machine
end

