-- ==== Sys2Proof/Machine/Housekeeping.lean ====
section
/-! DEFINITION. ZEROIZE (rule R180) and what an illegal command word does (rule R181). -/

namespace Sys2Proof.Machine

/-- KEY, KEY_LEN, TOKEN and TOKEN_LEN <- 0: what ZEROIZE writes (rule R180). -/
def State.eraseSecrets (s : State) : State :=
  { s with key := rep 0 s.keyMax, keyLen := 0, token := Vector.replicate 16 0, tokenLen := 0 }

/-- ZEROIZE: erase the secret and the token; it validates nothing and cannot fail (rule R180). -/
def execZeroize (s : State) : Host.Outcome State Fault Refusal := .next s.eraseSecrets.complete

/-- The completion step of an illegal command word: raise IllegalCommand (rule R181). -/
def execIllegal (s : State) : Host.Outcome State Fault Refusal := .next (s.raise .illegalCommand)

end Sys2Proof.Machine
end

