-- ==== Sys2Proof/Machine/Totp.lean ====
section
/-! DEFINITION. The time-based commands TGEN and TVERIFY (rules R170 to R172). -/

namespace Sys2Proof.Machine

/-- `TotpCounter(now_ms, timestep) = floor(now_ms / (1000 * timestep))` (rule R170): `Int.fdiv` rounds toward minus
infinity. -/
def totpCounter (nowMs : Int) (timestep : Nat) : Int := nowMs.fdiv (1000 * timestep)

/-- The counter TGEN and TVERIFY derive from NOW_MS and TIMESTEP; it is written to no register (rule R52). -/
def State.derivedCounter (s : State) : Int := totpCounter s.nowMsInt s.timestepNat

/-- TGEN: the code of the derived counter into CODE_LEN and CODE (rule R171). -/
def execTgen (s : State) : Host.Outcome State Fault Refusal :=
  withInputs .tgen s fun x => s.writeCode x.digits (otp x.key s.derivedCounter x.hash x.digits)

/-- TVERIFY: MATCHED from the one code of the derived counter; DELTA is not written (rule R172). -/
def execTverify (s : State) : Host.Outcome State Fault Refusal :=
  withInputs .tverify s fun x =>
    s.writeMatched (tokenEqual s.tokLen s.token (otp x.key s.derivedCounter x.hash x.digits))

end Sys2Proof.Machine
end

