-- ==== Sys2Proof/Machine/Dispatch.lean ====
section
/-! DEFINITION. One arm per command: the completion step of each (rule R85). -/

namespace Sys2Proof.Machine

def exec (i : Instr) (s : State) : Host.Outcome State Fault Refusal :=
  match i with
  | .gen => Sys2Proof.Machine.execGen s
  | .verify => Sys2Proof.Machine.execVerify s
  | .tgen => Sys2Proof.Machine.execTgen s
  | .tverify => Sys2Proof.Machine.execTverify s
  | .zeroize => Sys2Proof.Machine.execZeroize s

end Sys2Proof.Machine
end

