-- ==== Sys2Proof/Machine/Sequencer.lean ====
section
/-! DEFINITION. Who moves next: the engine's one step (rule R85) and the events of the total order (rules R71, R72,
R197). `step` of Step.lean only calls `advance`. -/

namespace Sys2Proof.Machine

/-- The completion step: the command CMD stands for, or IllegalCommand (rules R85, R181). -/
def completionStep (s : State) : Host.Outcome State Fault Refusal :=
  match decode s.cmd with
  | .ok i => exec i s
  | .error _ => execIllegal s

/-- The engine's turn: the completion step while BUSY; with BUSY = 0 "the engine has no step" and every register
keeps its value (rules R85, R204). -/
def engineTurn (s : State) : Host.Outcome State Fault Refusal :=
  if s.busy then completionStep s else .next s

/-- One event of the total order. -/
def takeEvent (e : Event) (s : State) : Host.Outcome State Fault Refusal :=
  match e with
  | .read width off => .next (s.hostRead width off)
  | .write width off v => .next (s.hostWrite width off v)
  | .reset => .next s.resetBlock
  | .engine => engineTurn s

/-- The next event of the agenda; with none left, the engine's turn, so that an issued command always completes (rule
R221). -/
def advance (s : State) : Host.Outcome State Fault Refusal :=
  match s.agenda with
  | [] => engineTurn s
  | e :: rest => takeEvent e (s.withAgenda rest)

/-- A state about to run the command word v: command issue of v (rule R63), and the engine's turn next. -/
def State.aboutToRun (v : Word) (s : State) : State :=
  (s.issue v).withAgenda (.engine :: s.agenda)

end Sys2Proof.Machine
end

