-- ==== Sys2Proof/Machine/Step.lean ====
section
/-! DEFINITION. The step of the machine, and where the next command word stands. -/

namespace Sys2Proof.Machine

/-- One step: the next event of the total order, or the engine's turn. -/
def step (s : State) : Host.Outcome State Fault Refusal := advance s

/-- s with the command word whose low `nbits` bits are those of w latched in CMD as command issue latches it, and the
engine's turn next, so that the very next step runs it (assumption log 4). A word that has a bit above the 32 of a
command word is no command word and changes nothing. -/
def State.withFetchWord (s : State) (nbits w : Nat) : State :=
  match tableWord nbits w with
  | some v => s.aboutToRun v
  | none => s

end Sys2Proof.Machine
end

