-- ==== Sys2Proof/Machine/HostNotation.lean ====
section
/-! DEFINITION. The host notation of rules R89 and R90: each form stands for the bus accesses of its expansion and has no
other meaning. The call sequences of the source's API (rule R90) are written in it. -/

namespace Sys2Proof.Machine

/-- One line of the host notation (rules R89, R90). -/
inductive HostOp where
  /-- `WR <reg>, <value>`. -/
  | wr (r : Reg) (v : Word)
  /-- `RD <reg>`. -/
  | rd (r : Reg)
  /-- `CMD <mnemonic>`. -/
  | cmd (i : Instr)
  /-- `WAIT`. -/
  | wait
  /-- `RESET`. -/
  | reset
  /-- `SETKEY S`. -/
  | setKey (bytes : List Byte)
  /-- `SETTOKEN S`. -/
  | setToken (bytes : List Byte)
  /-- `SETCOUNTER n`. -/
  | setCounter (n : Int)
  /-- `SETNOW n`. -/
  | setNow (n : Int)
  /-- `SETCFG hash, digits`. -/
  | setCfg (h : Hash) (digits : Nat)
  /-- `SETWINDOW n`. -/
  | setWindow (n : Int)
  /-- `SETSTEP n`. -/
  | setStep (n : Nat)
  deriving DecidableEq, Repr

/-- The selector value of a hash (rule R86). -/
def Hash.selector : Hash → Nat
  | .sha1 => 0
  | .sha256 => 1
  | .sha512 => 2

/-- What a line of the notation requires of its operands, on a block with `keyMax` bytes of KEY (rules R13, R89, R90). -/
def HostOp.wf (keyMax : Nat) : HostOp → Bool
  | .wr r _ => r.present keyMax
  | .rd r => r.present keyMax
  | .cmd i => i.wf
  | .wait => true
  | .reset => true
  | .setKey bytes => bytes.length ≤ keyMax
  | .setToken bytes => bytes.length ≤ 16
  | .setCounter n => -2 ^ 63 ≤ n ∧ n < 2 ^ 63
  | .setNow n => -2 ^ 63 ≤ n ∧ n < 2 ^ 63
  | .setCfg _ digits => digits < 2 ^ 4
  | .setWindow n => -2 ^ 31 ≤ n ∧ n < 2 ^ 31
  | .setStep n => n < 2 ^ 32

/-- The aligned word write of a register. -/
def writeEvent (r : Reg) (v : Word) : Event := .write 4 r.offset v

/-- The aligned word read of a register. -/
def readEvent (r : Reg) : Event := .read 4 r.offset

/-- `pad4(S)`: S with zero bytes up to a multiple of 4 (rule R90). -/
def pad4 (bytes : List Byte) : List Byte := bytes ++ rep 0 ((4 - bytes.length % 4) % 4)

/-- The writes of `S{0}, S{1}, …` to the words of a buffer, in order (rule R90). -/
def bufferWrites (reg : Nat → Reg) (bytes : List Byte) : List Event :=
  (List.range ((bytes.length + 3) / 4)).map fun k => writeEvent (reg k) (bufferWord (pad4 bytes) k)

/-- The bus accesses a line of the notation stands for (rules R89, R90). At `WAIT` the engine's completion step
happens, and the host's last read of STATUS sees DONE. -/
def HostOp.expand : HostOp → List Event
  | .wr r v => [writeEvent r v]
  | .rd r => [readEvent r]
  | .cmd i => [writeEvent .cmd (encode i)]
  | .wait => [.engine, readEvent .status]
  | .reset => [.reset]
  | .setKey bytes => bufferWrites .keyW bytes ++ [writeEvent .keyLen (BitVec.ofNat 32 bytes.length)]
  | .setToken bytes => bufferWrites .tokenW bytes ++ [writeEvent .tokenLen (BitVec.ofNat 32 bytes.length)]
  | .setCounter n =>
    [writeEvent .counterHi (hiWord (BitVec.ofInt 64 n)), writeEvent .counterLo (loWord (BitVec.ofInt 64 n))]
  | .setNow n => [writeEvent .nowMsHi (hiWord (BitVec.ofInt 64 n)), writeEvent .nowMsLo (loWord (BitVec.ofInt 64 n))]
  | .setCfg h digits => [writeEvent .cfg (BitVec.ofNat 32 (h.selector + digits <<< 8))]
  | .setWindow n => [writeEvent .window (BitVec.ofInt 32 n)]
  | .setStep n => [writeEvent .timestep (BitVec.ofNat 32 n)]

/-- The bus accesses of several lines. -/
def expandAll (ops : List HostOp) : List Event := ops.flatMap HostOp.expand

/-- The source's `generate(secret, counter, options)` as host lines (rule R90). -/
def generateCall (secret : List Byte) (counter : Int) (h : Hash) (digits : Nat) : List HostOp :=
  [.setKey secret, .setCounter counter, .setCfg h digits, .cmd .gen, .wait, .rd .codeLen, .rd (.codeW 0), .rd (.codeW 1),
    .rd (.codeW 2)]

/-- The source's `verify(token, secret, counter, options)` as host lines (rule R90). -/
def verifyCall (token secret : List Byte) (counter window : Int) (h : Hash) (digits : Nat) : List HostOp :=
  [.setKey secret, .setToken token, .setCounter counter, .setWindow window, .setCfg h digits, .cmd .verify, .wait,
    .rd .status, .rd .deltaHi, .rd .deltaLo]

end Sys2Proof.Machine
end

