-- ==== Sys2Proof/Safety.lean ====
section
/-! DEFINITION. What claims about runs are stated in: the engine's turn, operands that pass validation, and the invariant
that every reachable state has. -/

namespace Sys2Proof.Machine

/-- The next step is the engine's: its turn comes first on the agenda, or nothing else is to come. -/
abbrev State.EngineNext (s : State) : Prop := s.agenda = [] ∨ s.agenda.head? = some .engine

/-- The operands that every generating or verifying command validates are legal, and select hash h (rule R191):
1 ≤ KEY_LEN ≤ KEY_MAX, CFG.HASH ∈ {0, 1, 2}, 1 ≤ CFG.DIGITS ≤ 10. -/
abbrev State.Operable (s : State) (h : Hash) : Prop :=
  1 ≤ s.keyLen.toNat ∧ s.keyLen.toNat ≤ s.key.length ∧ hashOfSelector s.cfgHash = some h ∧ 1 ≤ s.cfgDigits.toNat ∧
    s.cfgDigits.toNat ≤ 10

/-- Every result register reads 0: CODE_LEN, CODE, DELTA (rules R63, R193). -/
abbrev State.ResultsCleared (s : State) : Prop :=
  s.codeLen = 0 ∧ s.code = Vector.replicate 12 0 ∧ s.delta = 0

/-- While BUSY the flags and the result registers are what command issue left (rules R31, R63, R72). -/
abbrev State.BusyOk (s : State) : Prop :=
  s.busy = true → s.done = false ∧ s.matched = false ∧ s.err = 0 ∧ s.ResultsCleared

/-- Neither BUSY nor DONE: only the state reset leaves (rules R31, R38). -/
abbrev State.FreshOk (s : State) : Prop :=
  s.busy = false → s.done = false → s.cmd = 0 ∧ s.matched = false ∧ s.err = 0 ∧ s.ResultsCleared

/-- MATCHED = 1 implies ERR = 0, DONE = 1 and the command is VERIFY or TVERIFY (rule R31). -/
abbrev State.MatchedOk (s : State) : Prop :=
  s.matched = true → s.err = 0 ∧ s.done = true ∧ (s.cmd = 0x00000002 ∨ s.cmd = 0x00000004)

/-- ERR is 0 to 6, and ERR ≠ 0 implies DONE = 1, MATCHED = 0 and cleared results (rules R31, R190). -/
abbrev State.ErrOk (s : State) : Prop :=
  s.err.toNat ≤ 6 ∧ (s.err ≠ 0 → s.done = true ∧ s.matched = false ∧ s.ResultsCleared)

/-- CODE holds CODE_LEN ≤ 10 ASCII digits and zeros after them, and a code only after GEN or TGEN (rules R35, R88). -/
abbrev State.CodeOk (s : State) : Prop :=
  s.codeLen.toNat ≤ 10 ∧
    (∀ j : Fin 12, s.codeLen.toNat ≤ j.val → s.code[j] = 0) ∧
    (∀ j : Fin 12, j.val < s.codeLen.toNat → 0x30 ≤ s.code[j].toNat ∧ s.code[j].toNat ≤ 0x39) ∧
    (s.codeLen ≠ 0 → s.done = true ∧ s.err = 0 ∧ (s.cmd = 0x00000001 ∨ s.cmd = 0x00000003))

/-- DELTA ≠ 0 only after a VERIFY that matched, and then within -(2^31-1) .. 2^31-1 (rules R26, R153). -/
abbrev State.DeltaOk (s : State) : Prop :=
  s.delta ≠ 0 → s.matched = true ∧ s.cmd = 0x00000002 ∧ -(2 ^ 31 - 1) ≤ s.delta.toInt ∧ s.delta.toInt ≤ 2 ^ 31 - 1

/-- The invariant: what rules R11, R26, R31, R35, R153 and R190 say of every reachable state. -/
abbrev State.Inv (s : State) : Prop :=
  Config.KeyMaxLegal s.key.length ∧ s.BusyOk ∧ s.FreshOk ∧ s.MatchedOk ∧ s.ErrOk ∧ s.CodeOk ∧ s.DeltaOk

/-- A safe run of k steps: no step of it faults or is refused. -/
def State.RunsTo (s : State) (k : Nat) (t : State) : Prop :=
  Host.Core.run Sys2Proof.core k s = .next t

end Sys2Proof.Machine
end

