-- ==== Sys2Proof/Certificates/Slice0/Obligations.lean ====
section
/-! DEFINITION. The statements for the provers, from the numbered rules of spec/. -/

open Sys2Proof Sys2Proof.Machine

/-! ### Encoding -/

/-- Rule R81: the five command words, and decoding is by exact match of all 32 bits: a word decodes to a command exactly
when it is that command's word. -/
def Obligations.DecodeEncodeAgree : Prop :=
  encode .gen = 0x00000001 ∧ encode .verify = 0x00000002 ∧ encode .tgen = 0x00000003 ∧
    encode .tverify = 0x00000004 ∧ encode .zeroize = 0x00000005 ∧
    (∀ i : Instr, i.wf = true → decode (encode i) = .ok i) ∧
    ∀ (w : Word) (i : Instr), decode w = .ok i → w = encode i

/-- The words of the opcode table, as the host numbers them, decode to their rows; the words around them and a word with
one bit above OP set decode to nothing. -/
def Obligations.TableWordsDecode : Prop :=
  decodeTableWord 32 0x00000001 = some .gen ∧ decodeTableWord 32 0x00000002 = some .verify ∧
    decodeTableWord 32 0x00000003 = some .tgen ∧ decodeTableWord 32 0x00000004 = some .tverify ∧
    decodeTableWord 32 0x00000005 = some .zeroize ∧ decodeTableWord 32 0x00000000 = none ∧
    decodeTableWord 32 0x00000006 = none ∧ decodeTableWord 32 0x00000011 = none ∧
    decodeTableWord 32 0x80000001 = none

/-- The two kinds of illegal encoding of rule R82, each rejected by its name, and they are all of them. -/
def Obligations.IllegalWordsRejectedByName : Prop :=
  ∀ w : Word,
    (w.toNat / 16 ≠ 0 → decode w = .error .zeroFieldSet) ∧
    (w.toNat / 16 = 0 → w.toNat = 0 ∨ 6 ≤ w.toNat → decode w = .error .unassignedOp) ∧
    ((∃ i, decode w = .ok i) ↔ CommandWord.wf w = true)

/-! ### The step -/

/-- Rule R85: while BUSY, the engine's turn is the completion step, which is the command CMD stands for or IllegalCommand;
it clears BUSY and sets DONE in every case. With BUSY = 0 rule R85 gives the engine no step: that an idle turn is a step
that changes no register, and that an empty agenda is the engine's turn, is the model's choice (assumption log 7); the
agenda itself is the model's own (log 3). -/
def Obligations.StepRunsTheLatchedCommand : Prop :=
  ∀ s : State, s.EngineNext →
    (s.busy = true → ∀ i, decode s.cmd = .ok i → step s = exec i (s.withAgenda s.agenda.tail)) ∧
    (s.busy = true → ∀ e, decode s.cmd = .error e →
      step s = .next ((s.withAgenda s.agenda.tail).raise .illegalCommand)) ∧
    (s.busy = true → ∃ t, step s = .next t ∧ t.busy = false ∧ t.done = true) ∧
    (s.busy = false → step s = .next (s.withAgenda s.agenda.tail))

/-- The word that `withFetchWord` latches is the one the very next step runs. -/
def Obligations.FetchedWordRunsNext : Prop :=
  ∀ (s : State) (nbits w : Nat) (i : Instr), decodeTableWord nbits w = some i →
    step (s.withFetchWord nbits w) = exec i (s.issue (encode i))

/-- No step stops the machine: every command and every step answers a next state, in every state. The spec names no stop;
that the model therefore has none is deduced (assumption log 9), as it is that a refused access is a next state (log 6);
that an idle engine turn is one is the model's choice (log 7). -/
def Obligations.EveryStepGoesOn : Prop :=
  (∀ s : State, ∃ t, step s = .next t) ∧ ∀ (i : Instr) (s : State), ∃ t, exec i s = .next t

/-- Rules R63, R72 and R221: from every BUSY state with no reset to come, however many host accesses stand before the
engine's turn, that turn comes within the agenda, with CMD, every operand register and every result register as they
were at issue, and the step after it has BUSY = 0 and DONE = 1. That the turn comes once the agenda is empty is the
model's choice (assumption log 7). -/
def Obligations.IssuedCommandCompletesOnItsOperands : Prop :=
  ∀ s : State, s.busy = true → Event.reset ∉ s.agenda →
    ∃ k u, k ≤ s.agenda.length ∧ s.RunsTo k u ∧ u = { s with agenda := u.agenda, reply := u.reply } ∧ u.EngineNext ∧
      ∃ t, s.RunsTo (k + 1) t ∧ t.busy = false ∧ t.done = true ∧ t.cmd = s.cmd

/-! ### The register space -/

/-- Rule R61: an aligned word read answers the value of the table and changes no state, whatever BUSY is. -/
def Obligations.HostReadTable : Prop :=
  ∀ (s : State) (rest : List Event) (off : Nat), off % 4 = 0 → off ≤ 0xFFC →
    ∃ v : Word,
      step { s with agenda := .read 4 off :: rest } = .next { s with agenda := rest, reply := .data v } ∧
      (off = 0x000 → v = s.cmd) ∧
      (off = 0x004 → v.toNat = s.busy.toNat + 2 * s.done.toNat + 4 * s.matched.toNat + 16 * s.err.toNat) ∧
      (off = 0x008 → v.toNat = s.cfgHash.toNat + 256 * s.cfgDigits.toNat) ∧
      (off = 0x00C → v = s.window) ∧
      (off = 0x010 → v.toNat = s.counter.toNat / 2 ^ 32) ∧
      (off = 0x014 → v.toNat = s.counter.toNat % 2 ^ 32) ∧
      (off = 0x018 → v = s.timestep) ∧
      (off = 0x020 → v.toNat = s.nowMs.toNat / 2 ^ 32) ∧
      (off = 0x024 → v.toNat = s.nowMs.toNat % 2 ^ 32) ∧
      (off = 0x028 → v.toNat = s.keyLen.toNat) ∧
      (off = 0x02C → v.toNat = s.tokenLen.toNat) ∧
      (0x030 ≤ off → off ≤ 0x03C → v.toNat = intBe ((s.token.toList.drop (off - 0x030)).take 4)) ∧
      (off = 0x040 → v.toNat = s.codeLen.toNat) ∧
      (0x044 ≤ off → off ≤ 0x04C → v.toNat = intBe ((s.code.toList.drop (off - 0x044)).take 4)) ∧
      (off = 0x050 → v.toNat = s.delta.toNat / 2 ^ 32) ∧
      (off = 0x054 → v.toNat = s.delta.toNat % 2 ^ 32) ∧
      (off = 0x01C ∨ 0x058 ≤ off → v = 0)

/-- Rule R62's lines for the registers that are not byte buffers: a host write while BUSY = 0 changes what its line
names and nothing else. -/
def Obligations.HostWriteTable : Prop :=
  ∀ (s : State) (rest : List Event) (v : Word), s.busy = false →
    let wr (off : Nat) := step { s with agenda := .write 4 off v :: rest }
    let t : State := { s with agenda := rest, reply := .written }
    wr 0x004 = .next t ∧
    wr 0x008 = .next { t with cfgHash := BitVec.ofNat 2 (v.toNat % 4), cfgDigits := BitVec.ofNat 4 (v.toNat / 256 % 16) } ∧
    wr 0x00C = .next { t with window := v } ∧
    wr 0x010 = .next { t with counter := BitVec.ofNat 64 (v.toNat * 2 ^ 32 + s.counter.toNat % 2 ^ 32) } ∧
    wr 0x014 = .next { t with counter := BitVec.ofNat 64 (s.counter.toNat / 2 ^ 32 * 2 ^ 32 + v.toNat) } ∧
    wr 0x018 = .next { t with timestep := v } ∧
    wr 0x020 = .next { t with nowMs := BitVec.ofNat 64 (v.toNat * 2 ^ 32 + s.nowMs.toNat % 2 ^ 32) } ∧
    wr 0x024 = .next { t with nowMs := BitVec.ofNat 64 (s.nowMs.toNat / 2 ^ 32 * 2 ^ 32 + v.toNat) } ∧
    wr 0x028 = .next { t with keyLen := BitVec.ofNat 16 (v.toNat % 2 ^ 16) } ∧
    wr 0x02C = .next { t with tokenLen := BitVec.ofNat 8 (v.toNat % 2 ^ 8) } ∧
    ∀ off, off % 4 = 0 → 0x040 ≤ off → off ≤ 0x054 → wr off = .next t

/-- Rules R62 and R65 for the byte buffers: a host write of a TOKEN or KEY word stores its four bytes, most significant
first, and changes no other byte and no other register. -/
def Obligations.HostWriteStoresBufferBytes : Prop :=
  ∀ (s : State) (rest : List Event) (v : Word) (k : Nat), s.busy = false →
    (k < 4 → ∃ token' : Vector Byte 16,
      step { s with agenda := .write 4 (0x030 + 4 * k) v :: rest } =
        .next { s with token := token', agenda := rest, reply := .written } ∧
      ∀ j : Fin 16, token'[j].toNat =
        if j.val / 4 = k then v.toNat / 256 ^ (3 - j.val % 4) % 256 else s.token[j].toNat) ∧
    (4 * k < s.key.length → 4 * k ≤ 0xEFC → ∃ key' : List Byte,
      step { s with agenda := .write 4 (0x100 + 4 * k) v :: rest } =
        .next { s with key := key', agenda := rest, reply := .written } ∧
      key'.length = s.key.length ∧
      ∀ j, j < s.key.length → (byteAt key' j).toNat =
        if j / 4 = k then v.toNat / 256 ^ (3 - j % 4) % 256 else (byteAt s.key j).toNat)

/-- Rule R213: while BUSY every host write, wherever it goes, is lost; the host is told nothing more than that it was
delivered. -/
def Obligations.WritesWhileBusyAreLost : Prop :=
  ∀ (s : State) (rest : List Event) (off : Nat) (v : Word), s.busy = true → off % 4 = 0 → off ≤ 0xFFC →
    step { s with agenda := .write 4 off v :: rest } = .next { s with agenda := rest, reply := .written }

/-- Rule R63: command issue. Every 32-bit value is accepted; the flags and results are cleared in the same transition and
no operand register changes. -/
def Obligations.CommandIssue : Prop :=
  ∀ (s : State) (rest : List Event) (v : Word), s.busy = false →
    step { s with agenda := .write 4 0x000 v :: rest } =
      .next { s with
        cmd := v, busy := true, done := false, matched := false, err := 0, codeLen := 0,
        code := Vector.replicate 12 0, delta := 0, agenda := rest, reply := .written }

/-- Rules R67 and R205: an access of another width, at an unaligned offset or outside the space is refused with no value,
and changes no register. That a refusal is a next state whose last answer is `.refused` is the model's choice
(assumption log 6). -/
def Obligations.OtherAccessesAreRefused : Prop :=
  ∀ (s : State) (rest : List Event) (width off : Nat) (v : Word), width ≠ 4 ∨ off % 4 ≠ 0 ∨ 0x1000 ≤ off →
    step { s with agenda := .read width off :: rest } = .next { s with agenda := rest, reply := .refused } ∧
      step { s with agenda := .write width off v :: rest } = .next { s with agenda := rest, reply := .refused }

/-- Rule R64: the reserved offsets read 0 and ignore writes, in every state. -/
def Obligations.ReservedOffsetsHoldNothing : Prop :=
  ∀ (s : State) (rest : List Event) (off : Nat) (v : Word), off % 4 = 0 → off ≤ 0xFFC →
    off = 0x01C ∨ (0x058 ≤ off ∧ off ≤ 0x0FC) ∨ 0x100 + s.key.length ≤ off →
    step { s with agenda := .read 4 off :: rest } = .next { s with agenda := rest, reply := .data 0 } ∧
      step { s with agenda := .write 4 off v :: rest } = .next { s with agenda := rest, reply := .written }

/-- A register reads back the bits of rule R20 that were written and 0 in its reserved bits; KEY reads back 0. -/
def Obligations.WrittenRegistersReadBack : Prop :=
  ∀ (s : State) (v : Word), s.busy = false →
    let back (off : Nat) := (s.memWrite off v).memRead off
    back 0x008 = v &&& 0x00000F03 ∧ back 0x00C = v ∧ back 0x010 = v ∧ back 0x014 = v ∧ back 0x018 = v ∧
      back 0x020 = v ∧ back 0x024 = v ∧ back 0x028 = v &&& 0x0000FFFF ∧ back 0x02C = v &&& 0x000000FF ∧
      (∀ k, k < 4 → back (0x030 + 4 * k) = v) ∧ ∀ k, back (0x100 + 4 * k) = 0

/-- Rule R33: KEY is write-only. Whatever the buffer holds, every host read has the same answer, and a read of a KEY word
answers 0; KEY_LEN is readable. -/
def Obligations.KeyIsNeverRead : Prop :=
  ∀ (s : State) (key' : List Byte) (rest : List Event) (width off : Nat),
    ∃ r : BusReply,
      step { s with agenda := .read width off :: rest } = .next { s with agenda := rest, reply := r } ∧
        step { s with key := key', agenda := .read width off :: rest } =
          .next { s with key := key', agenda := rest, reply := r } ∧
        (width = 4 → off % 4 = 0 → 0x100 ≤ off → off ≤ 0xFFC → r = .data 0) ∧
        (width = 4 → off = 0x028 → r = .data (s.keyLen.setWidth 32))

/-- Rule R66: the bytes of the words at 0x010 and 0x014, high byte first, are the HMAC message of COUNTER. -/
def Obligations.CounterWordsAreTheMessage : Prop :=
  ∀ s : State, beBytes 4 (s.memRead 0x010).toNat ++ beBytes 4 (s.memRead 0x014).toNat = counterBytes s.counter.toInt

/-! ### Reset -/

/-- Rule R38: what reset leaves, register by register as a host reads it, and every generating or verifying command fails
with InvalidSecret on it. The size of KEY is the model's choice (assumption log 1) and is not stated. -/
def Obligations.ResetValues : Prop :=
  let s := State.reset
  s.cmd = 0 ∧ s.memRead 0x004 = 0 ∧ s.cfgHash = 0 ∧ s.cfgDigits = 6 ∧ s.window = 50 ∧ s.counter = 0 ∧
    s.timestep = 30 ∧ s.nowMs = 0 ∧ s.keyLen = 0 ∧ (∀ b ∈ s.key, b = 0) ∧ s.tokenLen = 0 ∧
    s.token = Vector.replicate 16 0 ∧ s.codeLen = 0 ∧ s.code = Vector.replicate 12 0 ∧ s.delta = 0 ∧
    ∀ i : Instr, i ≠ .zeroize → exec i s = .next { s with err := 1, busy := false, done := true }

/-- Reset in any state puts every register at its reset value and discards a command in progress (rule R210). The model's
own, no rule of the spec: KEY keeps its size, the agenda stays and the reply becomes .none (assumption log 8), and an
engine's turn that comes next is a step that changes no register (log 7). -/
def Obligations.ResetDiscardsEverything : Prop :=
  ∀ (s : State) (rest : List Event),
    ∃ t, step { s with agenda := .reset :: rest } = .next t ∧
      t = { State.reset with key := List.replicate s.key.length 0, agenda := rest } ∧
      (t.EngineNext → step t = .next (t.withAgenda t.agenda.tail))

/-! ### The engine's functions -/

/-- Rule R100: eight bytes, each byte j being (twos_64(c) >> (8*(7-j))) & 0xFF, and different counters have different
messages. -/
def Obligations.CounterBytesBigEndian : Prop :=
  ∀ c : Int, -2 ^ 63 ≤ c → c ≤ 2 ^ 63 - 1 →
    (counterBytes c).length = 8 ∧
      (∀ j, j < 8 → ((byteAt (counterBytes c) j).toNat : Int) = c % 2 ^ 64 / 2 ^ (8 * (7 - j)) % 256) ∧
      ∀ c' : Int, -2 ^ 63 ≤ c' → c' ≤ 2 ^ 63 - 1 → counterBytes c = counterBytes c' → c = c'

/-- Rule R101: the digest is the HMAC of the 8 counter bytes, 20, 32 or 64 bytes long. -/
def Obligations.DigestIsHmacOfCounter : Prop :=
  ∀ (h : Hash) (key : List Byte) (c : Int),
    counterDigest h key c = hmac h key (counterBytes c) ∧
      (counterDigest .sha1 key c).length = 20 ∧ (counterDigest .sha256 key c).length = 32 ∧
      (counterDigest .sha512 key c).length = 64

/-- Rules R102 and R103: the offset is the low nibble of the digest's last byte, and the value is the four bytes there
read big-endian with the top bit dropped. -/
def Obligations.ValueIsFourBytesAtOffset : Prop :=
  ∀ d : List Byte, d.length = 20 ∨ d.length = 32 ∨ d.length = 64 →
    digestOffset d = (d.getLast?.getD 0).toNat % 16 ∧
      digestValue d = intBe ((d.drop (digestOffset d)).take 4) % 2 ^ 31

/-- Rule R104: the truncation never leaves the digest, the value is below 2^31 with a leading tenth digit of at most 2,
and only the first 19 bytes and the last byte matter. -/
def Obligations.TruncationBounds : Prop :=
  ∀ d : List Byte, d.length = 20 ∨ d.length = 32 ∨ d.length = 64 →
    digestOffset d ≤ 15 ∧ digestOffset d + 3 < d.length ∧ digestValue d < 2 ^ 31 ∧ digestValue d < 10 ^ 10 ∧
      digestValue d / 10 ^ 9 ≤ 2 ∧
      ∀ d' : List Byte, d'.length = d.length → d'.take 19 = d.take 19 → d'.getLast? = d.getLast? →
        digestValue d' = digestValue d

/-- Rule R105: the reduction modulo a power of ten, and ten digits lose nothing of a 31-bit value. -/
def Obligations.CodeNumberBounds : Prop :=
  ∀ v n : Nat, v < 2 ^ 31 → 1 ≤ n → n ≤ 10 →
    codeNumber v n = v % 10 ^ n ∧ codeNumber v n < 10 ^ n ∧ codeNumber v 10 = v

/-- Rule R106: exactly n ASCII digits, digit j being floor(m / 10^(n-1-j)) mod 10, that read back as m. -/
def Obligations.DecimalReadsBack : Prop :=
  ∀ m n : Nat, 1 ≤ n → n ≤ 10 → m < 10 ^ n →
    (decimal m n).length = n ∧
      (∀ j, j < n → (byteAt (decimal m n) j).toNat = 0x30 + m / 10 ^ (n - 1 - j) % 10) ∧
      (∀ b ∈ decimal m n, 0x30 ≤ b.toNat ∧ b.toNat ≤ 0x39) ∧
      (decimal m n).foldl (fun acc b => acc * 10 + (b.toNat - 0x30)) 0 = m

/-- Rule R107: equal means the same length and the same bytes; a length mismatch is not equal; bytes of TOKEN from
tok_len on never matter. -/
def Obligations.TokenEqualityByContent : Prop :=
  ∀ (tokLen : Nat) (token : Vector Byte 16) (code : List Byte), tokLen < 256 → 1 ≤ code.length → code.length ≤ 10 →
    (tokenEqual tokLen token code = true ↔ tokLen = code.length ∧ token.toList.take tokLen = code) ∧
      ∀ token' : Vector Byte 16, token'.toList.take tokLen = token.toList.take tokLen →
        tokenEqual tokLen token' code = tokenEqual tokLen token code

/-- Rules R108 and R110: the composition of the engine's functions, always exactly n digits, and the source's three
known codes for the key "12345678901234567890". -/
def Obligations.OtpComposition : Prop :=
  (∀ (key : List Byte) (c : Int) (h : Hash) (n : Nat),
    otp key c h n = decimal (codeNumber (digestValue (hmac h key (counterBytes c))) n) n ∧
      (otp key c h n).length = n) ∧
    let k20 := beBytes 20 0x3132333435363738393031323334353637383930
    otp k20 0 .sha1 6 = beBytes 6 0x373535323234 ∧ otp k20 1 .sha1 6 = beBytes 6 0x323837303832 ∧
      otp k20 9 .sha1 6 = beBytes 6 0x353230343839

/-! ### HMAC and the hashes -/

/-- Rule R123: padding fills whole blocks with the least number of zero bytes, keeps the message and the 0x80 byte before
them, and ends with the low F bytes of the bit length. They are the whole bit length wherever 8 * len(msg) < 256^F, as in
every hash the engine makes; for a longer message the kept low bytes are the model's reading (assumption log 5). -/
def Obligations.PaddingFillsBlocks : Prop :=
  ∀ (h : Hash) (msg : List Byte),
    let z := zeroFill msg.length h.blockBytes h.lengthBytes
    let p := padMessage msg h.blockBytes h.lengthBytes
    p.length % h.blockBytes = 0 ∧ p.length = msg.length + 1 + z + h.lengthBytes ∧
      (∀ z', (msg.length + 1 + z' + h.lengthBytes) % h.blockBytes = 0 → z ≤ z') ∧
      p.take (msg.length + 1) = msg ++ [0x80] ∧
      (p.drop (msg.length + 1)).take z = List.replicate z 0 ∧
      intBe (p.drop (msg.length + 1 + z)) = 8 * msg.length % 256 ^ h.lengthBytes

/-- The check values of rules R124, R126 and R128: the digests of "" and "abc". -/
def Obligations.HashCheckValues : Prop :=
  let abc : List Byte := [0x61, 0x62, 0x63]
  intBe (Hash.sha1.digest []) = 0xda39a3ee5e6b4b0d3255bfef95601890afd80709 ∧
    intBe (Hash.sha1.digest abc) = 0xa9993e364706816aba3e25717850c26c9cd0d89d ∧
    intBe (Hash.sha256.digest []) = 0xe3b0c44298fc1c149afbf4c8996fb92427ae41e4649b934ca495991b7852b855 ∧
    intBe (Hash.sha256.digest abc) = 0xba7816bf8f01cfea414140de5dae2223b00361a396177a9cb410ff61f20015ad ∧
    intBe (Hash.sha512.digest []) =
      0xcf83e1357eefb8bdf1542850d66d8007d620e4050b5715dc83f4a921d36ce9ce47d0d13c5d85f2b0ff8318d2877eec2f63b931bd47417a81a538327af927da3e ∧
    intBe (Hash.sha512.digest abc) =
      0xddaf35a193617abacc417349ae20413112e6fa4e89a97ea20a9eeee64b55d39a2192992a274fc1a836ba3c23a3feebbd454d4423643ce80e2a9ac94fa54ca49f

/-- Rule R129: the tables of round constants and the initial words are the fractional parts of cube roots and square
roots of the first primes. A word k of b bits is the fraction of the d-th root of p when, for some whole part q, q * 2^b + k
is the floor of the d-th root of p * 2^(d*b). -/
def Obligations.HashConstantsFromPrimes : Prop :=
  let primes : List Nat := (List.range 410).filter fun n => decide (2 ≤ n ∧ ∀ m < n, m < 2 ∨ n % m ≠ 0)
  let fraction (d b p k : Nat) : Prop :=
    ∃ q < p, (q * 2 ^ b + k) ^ d ≤ p * 2 ^ (d * b) ∧ p * 2 ^ (d * b) < (q * 2 ^ b + k + 1) ^ d
  let words {w : Nat} (h : Sha2State w) : List (BitVec w) := [h.a, h.b, h.c, h.d, h.e, h.f, h.g, h.h]
  primes.length = 80 ∧ k256.length = 64 ∧ k512.length = 80 ∧
    (∀ i < 64, fraction 3 32 (primes.getD i 0) (k256.getD i 0).toNat) ∧
    (∀ i < 80, fraction 3 64 (primes.getD i 0) (k512.getD i 0).toNat) ∧
    (∀ i < 8, fraction 2 32 (primes.getD i 0) ((words sha256Params.init).getD i 0).toNat) ∧
    ∀ i < 8, fraction 2 64 (primes.getD i 0) ((words sha512Params.init).getD i 0).toNat

/-- Rule R121, by the length of the key: a key of exactly a block is used as it is, a shorter one is as if zero bytes up to
a block stood after it, a longer one as if it were its hash; the result has the hash's digest length. -/
def Obligations.HmacKeyRules : Prop :=
  ∀ (h : Hash) (key msg : List Byte),
    (∀ n, key.length + n ≤ h.blockBytes → hmac h (key ++ List.replicate n 0) msg = hmac h key msg) ∧
      (h.blockBytes < key.length → hmac h key msg = hmac h (h.digest key) msg) ∧
      (key.length = h.blockBytes → hmac h key msg =
        h.digest (key.map (· ^^^ 0x5C) ++ h.digest (key.map (· ^^^ 0x36) ++ msg))) ∧
      (hmac h key msg).length = h.digestBytes

/-- Rule R130, on HMAC's own hashes: with an 8-byte message the inner and the outer hash read two blocks each, for every
key, and a key longer than a block is hashed first over ceil((len(key) + 1 + F) / B) blocks. -/
def Obligations.HmacBlockCount : Prop :=
  ∀ (h : Hash) (key msg : List Byte), msg.length = 8 →
    let blocks (m : List Byte) : Nat := (messageBlocks h.blockBytes (padMessage m h.blockBytes h.lengthBytes)).length
    let inner := xorBytes (hmacKey h key) (rep 0x36 h.blockBytes) ++ msg
    let outer := xorBytes (hmacKey h key) (rep 0x5C h.blockBytes) ++ h.digest inner
    hmac h key msg = h.digest outer ∧ blocks inner = 2 ∧ blocks outer = 2 ∧
      (key.length ≤ h.blockBytes → hmacKey h key = key ++ rep 0 (h.blockBytes - key.length)) ∧
      (h.blockBytes < key.length →
        hmacKey h key = h.digest key ++ rep 0 (h.blockBytes - h.digestBytes) ∧
          blocks key = (key.length + 1 + h.lengthBytes + (h.blockBytes - 1)) / h.blockBytes)

/-! ### GEN and VERIFY -/

/-- Rule R150: on legal operands GEN completes with CODE_LEN = digits, the code of COUNTER in CODE and zeros after it,
and changes nothing else but BUSY and DONE. -/
def Obligations.GenWritesTheCode : Prop :=
  ∀ (s : State) (h : Hash), s.Operable h →
    let n := s.cfgDigits.toNat
    let code := otp (s.key.take s.keyLen.toNat) s.counter.toInt h n
    ∃ t, exec .gen s = .next t ∧
      t = { s with codeLen := t.codeLen, code := t.code, busy := false, done := true } ∧
      t.codeLen = s.cfgDigits ∧ t.code.toList = code ++ List.replicate (12 - n) 0

/-- Rules R151, R152 and R153: on legal operands with WINDOW ≥ 0 VERIFY completes with MATCHED = 1 exactly when some
candidate of the clamped range has the token as its code; DELTA is then the least such candidate less COUNTER, and 0
otherwise; and it changes nothing else but BUSY and DONE. -/
def Obligations.VerifyFindsTheLeastMatch : Prop :=
  ∀ (s : State) (h : Hash), s.Operable h → 0 ≤ s.window.toInt →
    let c := s.counter.toInt
    let lo := max (c - s.window.toInt) (-2 ^ 63)
    let hi := min (c + s.window.toInt) (2 ^ 63 - 1)
    let hit (i : Int) : Prop := s.tokenLen.toNat = s.cfgDigits.toNat ∧
      s.token.toList.take s.tokenLen.toNat = otp (s.key.take s.keyLen.toNat) i h s.cfgDigits.toNat
    ∃ t, exec .verify s = .next t ∧
      t = { s with matched := t.matched, delta := t.delta, busy := false, done := true } ∧
      (t.matched = true ↔ ∃ i, lo ≤ i ∧ i ≤ hi ∧ hit i) ∧
      (t.matched = true → lo ≤ c + t.delta.toInt ∧ c + t.delta.toInt ≤ hi ∧ hit (c + t.delta.toInt) ∧
        ∀ i, lo ≤ i → i < c + t.delta.toInt → ¬ hit i) ∧
      (t.matched = false → t.delta = 0)

/-- Rules R153 and R156: the clamped range holds the expected counter and only 64-bit counters, and has at most
2*window + 1 candidates; a candidate less the counter lies within the window and survives as a 64-bit DELTA; WINDOW = 0
tries exactly the expected counter. -/
def Obligations.CandidateRange : Prop :=
  ∀ (counter : DWord) (window : Word), 0 ≤ window.toInt →
    let c := counter.toInt
    let lo := searchLo c window.toInt
    let hi := searchHi c window.toInt
    lo = max (c - window.toInt) (-2 ^ 63) ∧ hi = min (c + window.toInt) (2 ^ 63 - 1) ∧ lo ≤ c ∧ c ≤ hi ∧
      (∀ i, lo ≤ i → i ≤ hi → -2 ^ 63 ≤ i ∧ i ≤ 2 ^ 63 - 1 ∧ -(2 ^ 31 - 1) ≤ i - c ∧ i - c ≤ 2 ^ 31 - 1 ∧
        (BitVec.ofInt 64 (i - c)).toInt = i - c) ∧
      1 ≤ candidateCount lo hi ∧ (candidateCount lo hi : Int) ≤ 2 * window.toInt + 1 ∧
      candidateCount lo hi < 2 ^ 32 ∧ (window = 0 → candidateCount lo hi = 1)

/-- Rule R155: a token of another length than the digit count matches nothing, whatever the window; it is no error. -/
def Obligations.TokenLengthMismatchIsNoMatch : Prop :=
  ∀ (s : State) (h : Hash), s.Operable h → 0 ≤ s.window.toInt → s.tokenLen.toNat ≠ s.cfgDigits.toNat →
    exec .verify s = .next { s with matched := false, delta := 0, busy := false, done := true }

/-- Rule R157, the round trip: the code GEN gives, verified with WINDOW = 0 on the same key, hash, digits and counter,
matches with delta 0. -/
def Obligations.RoundTripMatchesWithDeltaZero : Prop :=
  ∀ (s t u : State) (h : Hash), s.Operable h → exec .gen s = .next t →
    u.key.take u.keyLen.toNat = s.key.take s.keyLen.toNat → u.Operable h → u.cfgDigits = s.cfgDigits →
    u.counter = s.counter → u.window = 0 → u.tokenLen.toNat = t.codeLen.toNat →
    u.token.toList.take u.tokenLen.toNat = t.code.toList.take t.codeLen.toNat →
    exec .verify u = .next { u with matched := true, delta := 0, busy := false, done := true }

/-- Rule R158, drift detection, under the hypothesis that no other candidate collides (90_conflicts.md C4): the token of
counter + d gives delta d when |d| ≤ window, and no match otherwise. -/
def Obligations.DriftDetectionWithoutCollision : Prop :=
  ∀ (s : State) (h : Hash) (d : Int), s.Operable h → 0 ≤ s.window.toInt →
    let c := s.counter.toInt
    let code (i : Int) := otp (s.key.take s.keyLen.toNat) i h s.cfgDigits.toNat
    c + d ≤ 2 ^ 63 - 1 → -2 ^ 63 ≤ c + d → s.tokenLen.toNat = s.cfgDigits.toNat →
    s.token.toList.take s.tokenLen.toNat = code (c + d) →
    (d.natAbs ≤ s.window.toInt →
      (∀ i, c - s.window.toInt ≤ i → i < c + d → -2 ^ 63 ≤ i → code i ≠ code (c + d)) →
      exec .verify s = .next { s with matched := true, delta := BitVec.ofInt 64 d, busy := false, done := true }) ∧
    (s.window.toInt < d.natAbs →
      (∀ i, c - s.window.toInt ≤ i → i ≤ c + s.window.toInt → -2 ^ 63 ≤ i → i ≤ 2 ^ 63 - 1 → code i ≠ code (c + d)) →
      exec .verify s = .next { s with matched := false, delta := 0, busy := false, done := true })

/-! ### TGEN and TVERIFY -/

/-- Rule R170: the derived counter is the floor of the exact quotient, the two-stage and the one-stage division agree, and
it is always a 64-bit counter. -/
def Obligations.TotpCounterIsTheFloor : Prop :=
  ∀ (nowMs : DWord) (timestep : Word), timestep ≠ 0 →
    let q := totpCounter nowMs.toInt timestep.toNat
    q * (1000 * timestep.toNat) ≤ nowMs.toInt ∧ nowMs.toInt < (q + 1) * (1000 * timestep.toNat) ∧
      q = (nowMs.toInt.fdiv 1000).fdiv timestep.toNat ∧ -2 ^ 63 ≤ q ∧ q ≤ 2 ^ 63 - 1 ∧
      (BitVec.ofInt 64 q).toInt = q

/-- Rule R171: on legal operands with TIMESTEP ≠ 0 TGEN completes with CODE_LEN = digits, the code of the derived counter
in CODE and zeros after it, and changes nothing else but BUSY and DONE. -/
def Obligations.TgenWritesTheCode : Prop :=
  ∀ (s : State) (h : Hash), s.Operable h → s.timestep ≠ 0 →
    let n := s.cfgDigits.toNat
    let code := otp (s.key.take s.keyLen.toNat) (s.nowMs.toInt.fdiv (1000 * s.timestep.toNat)) h n
    ∃ t, exec .tgen s = .next t ∧
      t = { s with codeLen := t.codeLen, code := t.code, busy := false, done := true } ∧
      t.codeLen = s.cfgDigits ∧ t.code.toList = code ++ List.replicate (12 - n) 0

/-- Rule R172: on legal operands with TIMESTEP ≠ 0 TVERIFY completes with MATCHED = 1 exactly when the token is the code of
the derived counter, and changes nothing else but BUSY and DONE; DELTA is not written. -/
def Obligations.TverifyComparesOneCode : Prop :=
  ∀ (s : State) (h : Hash), s.Operable h → s.timestep ≠ 0 →
    let code := otp (s.key.take s.keyLen.toNat) (s.nowMs.toInt.fdiv (1000 * s.timestep.toNat)) h s.cfgDigits.toNat
    ∃ t, exec .tverify s = .next t ∧
      t = { s with matched := t.matched, busy := false, done := true } ∧
      (t.matched = true ↔ s.tokenLen.toNat = s.cfgDigits.toNat ∧ s.token.toList.take s.tokenLen.toNat = code)

/-- Rule R171: TGEN equals GEN with COUNTER = tc, in every state with TIMESTEP ≠ 0, errors included. -/
def Obligations.TgenEqualsGenAtDerivedCounter : Prop :=
  ∀ s t : State, s.timestep ≠ 0 → exec .tgen s = .next t →
    let c := BitVec.ofInt 64 (totpCounter s.nowMs.toInt s.timestep.toNat)
    exec .gen { s with counter := c } = .next { t with counter := c }

/-- Rule R172: TVERIFY equals VERIFY with COUNTER = tc and WINDOW = 0, in every state with TIMESTEP ≠ 0 and DELTA = 0,
errors included. -/
def Obligations.TverifyEqualsVerifyWithoutWindow : Prop :=
  ∀ s t : State, s.timestep ≠ 0 → s.delta = 0 → exec .tverify s = .next t →
    let c := BitVec.ofInt 64 (totpCounter s.nowMs.toInt s.timestep.toNat)
    exec .verify { s with counter := c, window := 0 } = .next { t with counter := c, window := 0 }

/-! ### ZEROIZE -/

/-- Rule R180: in every state ZEROIZE completes with KEY, KEY_LEN, TOKEN and TOKEN_LEN zero, and changes nothing else but
BUSY and DONE; in particular not CFG, WINDOW, COUNTER, TIMESTEP, NOW_MS or CMD. -/
def Obligations.ZeroizeErasesSecretAndToken : Prop :=
  ∀ s : State, ∃ t, exec .zeroize s = .next t ∧
    t = { s with key := t.key, keyLen := 0, token := t.token, tokenLen := 0, busy := false, done := true } ∧
    t.key.length = s.key.length ∧ (∀ j, byteAt t.key j = 0) ∧ ∀ j : Fin 16, t.token[j] = 0

/-- Rule R180: after ZEROIZE, and while no key is loaded, every generating or verifying command that is issued fails with
InvalidSecret, whatever the host did to the other registers. -/
def Obligations.CommandsFailAfterZeroize : Prop :=
  ∀ (s t u : State) (i : Instr), exec .zeroize s = .next t → i ≠ .zeroize → u.keyLen = t.keyLen →
    exec i u = .next { u with err := 1, busy := false, done := true }

/-! ### Errors -/

/-- Rules R190 to R193: which error a command reports, by the registers, in the order of the checks; and error entry writes
ERR, BUSY and DONE and nothing else. -/
def Obligations.ErrorsInPriorityOrder : Prop :=
  ∀ (s : State) (i : Instr), i ≠ .zeroize →
    let entry (code : BitVec 4) := Host.Outcome.next { s with err := code, busy := false, done := true }
    let secretBad := s.keyLen.toNat = 0 ∨ s.key.length < s.keyLen.toNat
    let hashBad := s.cfgHash.toNat = 3
    let digitsBad := s.cfgDigits.toNat = 0 ∨ 11 ≤ s.cfgDigits.toNat
    (secretBad → exec i s = entry 1) ∧
    (¬ secretBad → hashBad → exec i s = entry 2) ∧
    (¬ secretBad → ¬ hashBad → digitsBad → exec i s = entry 3) ∧
    (¬ secretBad → ¬ hashBad → ¬ digitsBad → i = .verify → 2 ^ 31 ≤ s.window.toNat → exec i s = entry 4) ∧
    (¬ secretBad → ¬ hashBad → ¬ digitsBad → i = .tgen ∨ i = .tverify → s.timestep = 0 → exec i s = entry 5) ∧
    (¬ secretBad → ¬ hashBad → ¬ digitsBad → (i = .verify → s.window.toNat < 2 ^ 31) →
      (i = .tgen ∨ i = .tverify → s.timestep ≠ 0) → ∃ t, exec i s = .next t ∧ t.err = s.err)

/-- Rule R181: the completion step of every word other than the five reports IllegalCommand, writes nothing else and
validates nothing; CMD keeps the word. -/
def Obligations.IllegalCommandReported : Prop :=
  ∀ s : State, s.EngineNext → s.busy = true → s.cmd.toNat = 0 ∨ 6 ≤ s.cmd.toNat →
    step s = .next { s with agenda := s.agenda.tail, err := 6, busy := false, done := true }

/-! ### Whole-machine rules -/

/-- GEN and TGEN depend on nothing but the operands rules R150 and R171 list: two states that agree on KEY[0..KEY_LEN-1],
KEY_LEN, KEY_MAX, CFG and COUNTER (or TIMESTEP and NOW_MS) give the same code and the same error. -/
def Obligations.GeneratingReadsOnlyItsOperands : Prop :=
  ∀ s s' t t' : State, s'.key.length = s.key.length → s'.keyLen = s.keyLen →
    s'.key.take s.keyLen.toNat = s.key.take s.keyLen.toNat → s'.cfgHash = s.cfgHash → s'.cfgDigits = s.cfgDigits →
    s.err = 0 → s'.err = 0 → s.ResultsCleared → s'.ResultsCleared →
    (s'.counter = s.counter → exec .gen s = .next t → exec .gen s' = .next t' →
      t'.codeLen = t.codeLen ∧ t'.code = t.code ∧ t'.err = t.err) ∧
    (s'.timestep = s.timestep → s'.nowMs = s.nowMs → exec .tgen s = .next t → exec .tgen s' = .next t' →
      t'.codeLen = t.codeLen ∧ t'.code = t.code ∧ t'.err = t.err)

/-- VERIFY and TVERIFY depend on nothing but the operands rules R151 and R172 list; of TOKEN only the bytes below
TOKEN_LEN. -/
def Obligations.VerifyingReadsOnlyItsOperands : Prop :=
  ∀ s s' t t' : State, s'.key.length = s.key.length → s'.keyLen = s.keyLen →
    s'.key.take s.keyLen.toNat = s.key.take s.keyLen.toNat → s'.cfgHash = s.cfgHash → s'.cfgDigits = s.cfgDigits →
    s'.tokenLen = s.tokenLen → s'.token.toList.take s.tokenLen.toNat = s.token.toList.take s.tokenLen.toNat →
    s.err = 0 → s'.err = 0 → s.matched = false → s'.matched = false → s.ResultsCleared → s'.ResultsCleared →
    (s'.counter = s.counter → s'.window = s.window → exec .verify s = .next t → exec .verify s' = .next t' →
      t'.matched = t.matched ∧ t'.delta = t.delta ∧ t'.err = t.err) ∧
    (s'.timestep = s.timestep → s'.nowMs = s.nowMs → exec .tverify s = .next t → exec .tverify s' = .next t' →
      t'.matched = t.matched ∧ t'.delta = t.delta ∧ t'.err = t.err)

/-- Rule R21: no command writes an operand register except ZEROIZE, and none writes CMD. -/
def Obligations.CommandsLeaveOperandsAlone : Prop :=
  ∀ (i : Instr) (s t : State), exec i s = .next t →
    t.cmd = s.cmd ∧ t.counter = s.counter ∧ t.window = s.window ∧ t.timestep = s.timestep ∧ t.nowMs = s.nowMs ∧
      t.cfgHash = s.cfgHash ∧ t.cfgDigits = s.cfgDigits ∧
      (i ≠ .zeroize → t.key = s.key ∧ t.keyLen = s.keyLen ∧ t.token = s.token ∧ t.tokenLen = s.tokenLen)

/-- Rule R29: CMD changes only by an accepted host write to it, to all 32 bits written, or by reset. -/
def Obligations.CmdChangesOnlyByIssueOrReset : Prop :=
  ∀ s t : State, step s = .next t → t.cmd ≠ s.cmd →
    (s.busy = false ∧ ∃ rest, s.agenda = .write 4 0x000 t.cmd :: rest) ∨ (∃ rest, s.agenda = .reset :: rest)

/-- Rule R214: once a command has completed, STATUS and the results stay as they are until the next accepted write to CMD
or reset, whatever else the host does. -/
def Obligations.ResultsStayUntilNextIssue : Prop :=
  ∀ s t : State, s.busy = false → step s = .next t →
    (t.busy = s.busy ∧ t.done = s.done ∧ t.matched = s.matched ∧ t.err = s.err ∧ t.codeLen = s.codeLen ∧
      t.code = s.code ∧ t.delta = s.delta) ∨
    (∃ v rest, s.agenda = .write 4 0x000 v :: rest) ∨ (∃ rest, s.agenda = .reset :: rest)

/-- No step changes KEY_MAX, the parameter of the instance. That KEY's size is KEY_MAX, and that reset keeps it, is the
model's own (assumption logs 1 and 8). -/
def Obligations.KeyMaxIsFixed : Prop :=
  ∀ s t : State, step s = .next t → t.key.length = s.key.length

/-- The invariant of rules R26, R31, R35, R88, R153 and R190 is kept by every step, from every state that has it. -/
def Obligations.EveryStepKeepsInv : Prop :=
  ∀ s t : State, s.Inv → step s = .next t → t.Inv

/-- The invariant holds right after reset. -/
def Obligations.InvHoldsAtReset : Prop := State.reset.Inv

/-! ### Host notation -/

/-- Rule R90: SETKEY S on an idle block of legal KEY_MAX loads S: its writes are all accepted, KEY[0 .. len(S)-1] = S,
the zero bytes of pad4 stand after it, KEY_LEN = len(S), and the bytes of KEY from pad4's end on and every other register
stay. -/
def Obligations.SetKeyLoadsTheSecret : Prop :=
  ∀ (s : State) (bytes : List Byte) (rest : List Event), s.busy = false → Config.KeyMaxLegal s.key.length →
    bytes.length ≤ s.key.length →
    let events := (HostOp.setKey bytes).expand
    ∃ key' : List Byte,
      State.RunsTo { s with agenda := events ++ rest } events.length
        { s with key := key', keyLen := BitVec.ofNat 16 bytes.length, agenda := rest, reply := .written } ∧
      key'.length = s.key.length ∧ key'.take bytes.length = bytes ∧
      key'.take (pad4 bytes).length = pad4 bytes ∧ key'.drop (pad4 bytes).length = s.key.drop (pad4 bytes).length

/-- Rules R90, R108 and R150: the source's generate(secret, counter, {hash, digits}), as the host writes it, completes on
every idle block of legal KEY_MAX with the code of that secret and counter, for every secret that fits, every 64-bit
counter, every hash and every digit count from 1 to 10; STATUS then reads 0x00000002. WAIT is read as one engine's turn
(assumption log 11). -/
def Obligations.GenerateCallComputesTheCode : Prop :=
  ∀ (s : State) (secret : List Byte) (counter : Int) (h : Hash) (digits : Nat),
    s.busy = false → Config.KeyMaxLegal s.key.length → 1 ≤ secret.length → secret.length ≤ s.key.length →
    -2 ^ 63 ≤ counter → counter ≤ 2 ^ 63 - 1 → 1 ≤ digits → digits ≤ 10 →
    let events := expandAll (generateCall secret counter h digits)
    ∃ t, State.RunsTo { s with agenda := events } events.length t ∧ t.agenda = [] ∧ t.memRead 0x004 = 0x00000002 ∧
      t.codeLen.toNat = digits ∧ t.code.toList.take digits = otp secret counter h digits

/-- Rules R90 and R152: the source's verify(token, secret, counter, {window, hash, digits}), as the host writes it, completes
on every idle block of legal KEY_MAX, for every token and secret that fit. Where some counter of the clamped window has the
token as its code, STATUS reads 0x00000006 and counter + DELTA is the least of them; else STATUS reads 0x00000002 and DELTA
is 0. WAIT is read as one engine's turn (assumption log 11). -/
def Obligations.VerifyCallAnswersTheWindow : Prop :=
  ∀ (s : State) (token secret : List Byte) (counter window : Int) (h : Hash) (digits : Nat),
    s.busy = false → Config.KeyMaxLegal s.key.length → 1 ≤ secret.length → secret.length ≤ s.key.length →
    token.length ≤ 16 → -2 ^ 63 ≤ counter → counter ≤ 2 ^ 63 - 1 → 0 ≤ window → window ≤ 2 ^ 31 - 1 →
    1 ≤ digits → digits ≤ 10 →
    let events := expandAll (verifyCall token secret counter window h digits)
    let candidate (i : Int) : Prop := max (counter - window) (-2 ^ 63) ≤ i ∧ i ≤ min (counter + window) (2 ^ 63 - 1)
    let hit (i : Int) : Prop := candidate i ∧ token = otp secret i h digits
    ∃ t, State.RunsTo { s with agenda := events } events.length t ∧ t.agenda = [] ∧
      ((∃ i, hit i) → t.memRead 0x004 = 0x00000006 ∧ hit (counter + t.delta.toInt) ∧
        ∀ i, hit i → counter + t.delta.toInt ≤ i) ∧
      ((¬∃ i, hit i) → t.memRead 0x004 = 0x00000002 ∧ t.delta = 0)
end

