-- ==== Sys2Proof/Laws/Bytes.lean ====
section
/-! SUPPORT. Byte strings and words: lengths, bytes and readings of `beBytes`, the two halves of a 64-bit register, and the
words of a buffer before and after a store. -/

namespace Sys2Proof.Machine

@[simp] theorem beBytes_length (n v : Nat) : (beBytes n v).length = n := by simp [beBytes]

theorem beBytes_getElem (n v j : Nat) (h : j < (beBytes n v).length) :
    (beBytes n v)[j] = BitVec.ofNat 8 (v >>> (8 * (n - 1 - j))) := by simp [beBytes]

@[simp] theorem rep_length (b : Byte) (n : Nat) : (rep b n).length = n := by simp [rep]

@[simp] theorem xorBytes_length (xs ys : List Byte) :
    (xorBytes xs ys).length = min xs.length ys.length := by simp [xorBytes]

theorem beBytes_succ (n v : Nat) : beBytes (n + 1) v = beBytes n (v / 256) ++ [BitVec.ofNat 8 v] := by
  apply List.ext_getElem
  · simp
  intro j h₁ h₂
  rw [beBytes_getElem, List.getElem_append]
  split
  · rename_i h
    simp only [beBytes_length] at h
    rw [beBytes_getElem, Nat.shiftRight_eq_div_pow, Nat.shiftRight_eq_div_pow, Nat.div_div_eq_div_mul,
      show 8 * (n + 1 - 1 - j) = 8 + 8 * (n - 1 - j) by omega, Nat.pow_add]
  · rename_i h
    simp only [beBytes_length] at h h₁
    simp [show n - j = 0 by omega]

theorem intBe_append_singleton (bs : List Byte) (b : Byte) : intBe (bs ++ [b]) = intBe bs * 256 + b.toNat := by
  simp [intBe]

/-- Reading back what `beBytes` wrote. -/
theorem intBe_beBytes (n v : Nat) : intBe (beBytes n v) = v % 256 ^ n := by
  induction n generalizing v with
  | zero => simp [beBytes, intBe, Nat.mod_one]
  | succ n ih =>
    rw [beBytes_succ, intBe_append_singleton, ih, BitVec.toNat_ofNat, show 256 ^ (n + 1) = 256 * 256 ^ n from Nat.pow_succ', Nat.mod_mul]
    omega

theorem hiWord_toNat (x : DWord) : (hiWord x).toNat = x.toNat / 2 ^ 32 := by
  simp only [hiWord, BitVec.extractLsb'_toNat, Nat.shiftRight_eq_div_pow]
  omega

theorem loWord_toNat (x : DWord) : (loWord x).toNat = x.toNat % 2 ^ 32 := by
  simp [loWord, BitVec.extractLsb'_toNat]

theorem withHi_toNat (x : DWord) (v : Word) : (withHi x v).toNat = v.toNat * 2 ^ 32 + x.toNat % 2 ^ 32 := by
  have h := (loWord x).isLt
  rw [withHi, BitVec.toNat_append, Nat.shiftLeft_eq, ← loWord_toNat, Nat.mul_comm,
    ← Nat.two_pow_add_eq_or_of_lt h]

theorem withLo_toNat (x : DWord) (v : Word) : (withLo x v).toNat = x.toNat / 2 ^ 32 * 2 ^ 32 + v.toNat := by
  have h := v.isLt
  rw [withLo, BitVec.toNat_append, Nat.shiftLeft_eq, ← hiWord_toNat, Nat.mul_comm,
    ← Nat.two_pow_add_eq_or_of_lt h]

@[simp] theorem hiWord_withHi (x : DWord) (v : Word) : hiWord (withHi x v) = v := by
  apply BitVec.eq_of_toNat_eq
  rw [hiWord_toNat, withHi_toNat]
  omega

@[simp] theorem loWord_withHi (x : DWord) (v : Word) : loWord (withHi x v) = loWord x := by
  apply BitVec.eq_of_toNat_eq
  rw [loWord_toNat, withHi_toNat, loWord_toNat]
  omega

@[simp] theorem hiWord_withLo (x : DWord) (v : Word) : hiWord (withLo x v) = hiWord x := by
  apply BitVec.eq_of_toNat_eq
  have := v.isLt
  rw [hiWord_toNat, withLo_toNat, hiWord_toNat]
  omega

@[simp] theorem loWord_withLo (x : DWord) (v : Word) : loWord (withLo x v) = v := by
  apply BitVec.eq_of_toNat_eq
  have := v.isLt
  rw [loWord_toNat, withLo_toNat]
  omega

/-- Writing both halves gives the register its whole value. -/
theorem withLo_withHi (x y : DWord) : withLo (withHi x (hiWord y)) (loWord y) = y := by
  apply BitVec.eq_of_toNat_eq
  rw [withLo_toNat, withHi_toNat, hiWord_toNat, loWord_toNat]
  omega

theorem wordByte_toNat (v : Word) (j : Nat) : (wordByte v j).toNat = v.toNat / 2 ^ (24 - 8 * j) % 256 := by
  simp [wordByte, BitVec.extractLsb'_toNat, Nat.shiftRight_eq_div_pow]

/-- A word of a buffer reads as its four bytes, the first most significant (rule R65). -/
theorem bufferWord_toNat (bs : List Byte) (k : Nat) :
    (bufferWord bs k).toNat = intBe [byteAt bs (4 * k), byteAt bs (4 * k + 1), byteAt bs (4 * k + 2), byteAt bs (4 * k + 3)] := by
  have h (a b c d : Byte) : (a ++ b ++ c ++ d).toNat = intBe [a, b, c, d] := by
    have := b.isLt
    have := c.isLt
    have := d.isLt
    simp only [BitVec.toNat_append, Nat.shiftLeft_eq, intBe, List.foldl]
    rw [Nat.mul_comm _ (2 ^ 8), ← Nat.two_pow_add_eq_or_of_lt (by omega), Nat.mul_comm _ (2 ^ 8),
      ← Nat.two_pow_add_eq_or_of_lt (by omega), Nat.mul_comm _ (2 ^ 8), ← Nat.two_pow_add_eq_or_of_lt (by omega)]
    omega
  exact h _ _ _ _

/-- The bytes of a word are what the word reads as (rule R65). -/
theorem intBe_wordBytes (v : Word) : intBe [wordByte v 0, wordByte v 1, wordByte v 2, wordByte v 3] = v.toNat := by
  have := v.isLt
  simp only [intBe, List.foldl, wordByte_toNat]
  omega

@[simp] theorem storeWord_length (bs : List Byte) (k : Nat) (v : Word) : (storeWord bs k v).length = bs.length := by
  simp [storeWord]

/-- A store to word k of KEY changes bytes 4k .. 4k+3 and no other (rule R62). -/
theorem storeWord_getElem (bs : List Byte) (k : Nat) (v : Word) (j : Nat) (h : j < (storeWord bs k v).length) :
    (storeWord bs k v)[j] = if j / 4 = k then wordByte v (j % 4) else bs[j]'(by simpa using h) := by
  simp only [storeWord, List.getElem_set]
  have : j % 4 = 0 ∨ j % 4 = 1 ∨ j % 4 = 2 ∨ j % 4 = 3 := by omega
  by_cases hk : j / 4 = k
  · obtain e | e | e | e := this <;> simp [hk, e] <;> split_ifs <;> first | rfl | omega
  · rw [if_neg hk]
    split_ifs <;> first | rfl | omega

/-- A store to word k of TOKEN changes bytes 4k .. 4k+3 and no other (rule R62). -/
theorem storeTokenWord_getElem (bs : Vector Byte 16) (k : Nat) (v : Word) (j : Nat) (h : j < 16) :
    (storeTokenWord bs k v)[j] = if j / 4 = k then wordByte v (j % 4) else bs[j] := by
  simp only [storeTokenWord, Vector.getElem_setIfInBounds]
  have : j % 4 = 0 ∨ j % 4 = 1 ∨ j % 4 = 2 ∨ j % 4 = 3 := by omega
  by_cases hk : j / 4 = k
  · obtain e | e | e | e := this <;> simp [hk, e] <;> split_ifs <;> first | rfl | omega
  · rw [if_neg hk]
    split_ifs <;> first | rfl | omega

end Sys2Proof.Machine
end

