-- ==== Sys2Proof/Laws/State.lean ====
section
/-! SUPPORT. One lemma per field per update of a state, true by rfl: later proofs rewrite with these and unfold no
record update. The frame of an update is the lemmas whose right side is the old field. -/

namespace Sys2Proof.Machine

variable (s : State)

/-! ### complete: what every completion step does (rule R85) -/

@[simp] theorem State.complete_cmd : (State.complete s).cmd = s.cmd := rfl
@[simp] theorem State.complete_busy : (State.complete s).busy = false := rfl
@[simp] theorem State.complete_done : (State.complete s).done = true := rfl
@[simp] theorem State.complete_matched : (State.complete s).matched = s.matched := rfl
@[simp] theorem State.complete_err : (State.complete s).err = s.err := rfl
@[simp] theorem State.complete_cfgHash : (State.complete s).cfgHash = s.cfgHash := rfl
@[simp] theorem State.complete_cfgDigits : (State.complete s).cfgDigits = s.cfgDigits := rfl
@[simp] theorem State.complete_window : (State.complete s).window = s.window := rfl
@[simp] theorem State.complete_counter : (State.complete s).counter = s.counter := rfl
@[simp] theorem State.complete_timestep : (State.complete s).timestep = s.timestep := rfl
@[simp] theorem State.complete_nowMs : (State.complete s).nowMs = s.nowMs := rfl
@[simp] theorem State.complete_keyLen : (State.complete s).keyLen = s.keyLen := rfl
@[simp] theorem State.complete_key : (State.complete s).key = s.key := rfl
@[simp] theorem State.complete_tokenLen : (State.complete s).tokenLen = s.tokenLen := rfl
@[simp] theorem State.complete_token : (State.complete s).token = s.token := rfl
@[simp] theorem State.complete_codeLen : (State.complete s).codeLen = s.codeLen := rfl
@[simp] theorem State.complete_code : (State.complete s).code = s.code := rfl
@[simp] theorem State.complete_delta : (State.complete s).delta = s.delta := rfl
@[simp] theorem State.complete_agenda : (State.complete s).agenda = s.agenda := rfl
@[simp] theorem State.complete_reply : (State.complete s).reply = s.reply := rfl

/-! ### writeMatched: what TVERIFY writes (rule R172) -/

@[simp] theorem State.writeMatched_cmd (m : Bool) : (State.writeMatched m s).cmd = s.cmd := rfl
@[simp] theorem State.writeMatched_busy (m : Bool) : (State.writeMatched m s).busy = s.busy := rfl
@[simp] theorem State.writeMatched_done (m : Bool) : (State.writeMatched m s).done = s.done := rfl
@[simp] theorem State.writeMatched_matched (m : Bool) : (State.writeMatched m s).matched = m := rfl
@[simp] theorem State.writeMatched_err (m : Bool) : (State.writeMatched m s).err = s.err := rfl
@[simp] theorem State.writeMatched_cfgHash (m : Bool) : (State.writeMatched m s).cfgHash = s.cfgHash := rfl
@[simp] theorem State.writeMatched_cfgDigits (m : Bool) : (State.writeMatched m s).cfgDigits = s.cfgDigits := rfl
@[simp] theorem State.writeMatched_window (m : Bool) : (State.writeMatched m s).window = s.window := rfl
@[simp] theorem State.writeMatched_counter (m : Bool) : (State.writeMatched m s).counter = s.counter := rfl
@[simp] theorem State.writeMatched_timestep (m : Bool) : (State.writeMatched m s).timestep = s.timestep := rfl
@[simp] theorem State.writeMatched_nowMs (m : Bool) : (State.writeMatched m s).nowMs = s.nowMs := rfl
@[simp] theorem State.writeMatched_keyLen (m : Bool) : (State.writeMatched m s).keyLen = s.keyLen := rfl
@[simp] theorem State.writeMatched_key (m : Bool) : (State.writeMatched m s).key = s.key := rfl
@[simp] theorem State.writeMatched_tokenLen (m : Bool) : (State.writeMatched m s).tokenLen = s.tokenLen := rfl
@[simp] theorem State.writeMatched_token (m : Bool) : (State.writeMatched m s).token = s.token := rfl
@[simp] theorem State.writeMatched_codeLen (m : Bool) : (State.writeMatched m s).codeLen = s.codeLen := rfl
@[simp] theorem State.writeMatched_code (m : Bool) : (State.writeMatched m s).code = s.code := rfl
@[simp] theorem State.writeMatched_delta (m : Bool) : (State.writeMatched m s).delta = s.delta := rfl
@[simp] theorem State.writeMatched_agenda (m : Bool) : (State.writeMatched m s).agenda = s.agenda := rfl
@[simp] theorem State.writeMatched_reply (m : Bool) : (State.writeMatched m s).reply = s.reply := rfl

/-! ### writeVerdict: what VERIFY writes (rule R151) -/

@[simp] theorem State.writeVerdict_cmd (m : Bool) (d : DWord) : (State.writeVerdict m d s).cmd = s.cmd := rfl
@[simp] theorem State.writeVerdict_busy (m : Bool) (d : DWord) : (State.writeVerdict m d s).busy = s.busy := rfl
@[simp] theorem State.writeVerdict_done (m : Bool) (d : DWord) : (State.writeVerdict m d s).done = s.done := rfl
@[simp] theorem State.writeVerdict_matched (m : Bool) (d : DWord) : (State.writeVerdict m d s).matched = m := rfl
@[simp] theorem State.writeVerdict_err (m : Bool) (d : DWord) : (State.writeVerdict m d s).err = s.err := rfl
@[simp] theorem State.writeVerdict_cfgHash (m : Bool) (d : DWord) : (State.writeVerdict m d s).cfgHash = s.cfgHash := rfl
@[simp] theorem State.writeVerdict_cfgDigits (m : Bool) (d : DWord) : (State.writeVerdict m d s).cfgDigits = s.cfgDigits := rfl
@[simp] theorem State.writeVerdict_window (m : Bool) (d : DWord) : (State.writeVerdict m d s).window = s.window := rfl
@[simp] theorem State.writeVerdict_counter (m : Bool) (d : DWord) : (State.writeVerdict m d s).counter = s.counter := rfl
@[simp] theorem State.writeVerdict_timestep (m : Bool) (d : DWord) : (State.writeVerdict m d s).timestep = s.timestep := rfl
@[simp] theorem State.writeVerdict_nowMs (m : Bool) (d : DWord) : (State.writeVerdict m d s).nowMs = s.nowMs := rfl
@[simp] theorem State.writeVerdict_keyLen (m : Bool) (d : DWord) : (State.writeVerdict m d s).keyLen = s.keyLen := rfl
@[simp] theorem State.writeVerdict_key (m : Bool) (d : DWord) : (State.writeVerdict m d s).key = s.key := rfl
@[simp] theorem State.writeVerdict_tokenLen (m : Bool) (d : DWord) : (State.writeVerdict m d s).tokenLen = s.tokenLen := rfl
@[simp] theorem State.writeVerdict_token (m : Bool) (d : DWord) : (State.writeVerdict m d s).token = s.token := rfl
@[simp] theorem State.writeVerdict_codeLen (m : Bool) (d : DWord) : (State.writeVerdict m d s).codeLen = s.codeLen := rfl
@[simp] theorem State.writeVerdict_code (m : Bool) (d : DWord) : (State.writeVerdict m d s).code = s.code := rfl
@[simp] theorem State.writeVerdict_delta (m : Bool) (d : DWord) : (State.writeVerdict m d s).delta = d := rfl
@[simp] theorem State.writeVerdict_agenda (m : Bool) (d : DWord) : (State.writeVerdict m d s).agenda = s.agenda := rfl
@[simp] theorem State.writeVerdict_reply (m : Bool) (d : DWord) : (State.writeVerdict m d s).reply = s.reply := rfl

/-! ### raise: error entry (rule R193) -/

@[simp] theorem State.raise_cmd (e : ErrorKind) : (State.raise e s).cmd = s.cmd := rfl
@[simp] theorem State.raise_busy (e : ErrorKind) : (State.raise e s).busy = false := rfl
@[simp] theorem State.raise_done (e : ErrorKind) : (State.raise e s).done = true := rfl
@[simp] theorem State.raise_matched (e : ErrorKind) : (State.raise e s).matched = s.matched := rfl
@[simp] theorem State.raise_err (e : ErrorKind) : (State.raise e s).err = e.code := rfl
@[simp] theorem State.raise_cfgHash (e : ErrorKind) : (State.raise e s).cfgHash = s.cfgHash := rfl
@[simp] theorem State.raise_cfgDigits (e : ErrorKind) : (State.raise e s).cfgDigits = s.cfgDigits := rfl
@[simp] theorem State.raise_window (e : ErrorKind) : (State.raise e s).window = s.window := rfl
@[simp] theorem State.raise_counter (e : ErrorKind) : (State.raise e s).counter = s.counter := rfl
@[simp] theorem State.raise_timestep (e : ErrorKind) : (State.raise e s).timestep = s.timestep := rfl
@[simp] theorem State.raise_nowMs (e : ErrorKind) : (State.raise e s).nowMs = s.nowMs := rfl
@[simp] theorem State.raise_keyLen (e : ErrorKind) : (State.raise e s).keyLen = s.keyLen := rfl
@[simp] theorem State.raise_key (e : ErrorKind) : (State.raise e s).key = s.key := rfl
@[simp] theorem State.raise_tokenLen (e : ErrorKind) : (State.raise e s).tokenLen = s.tokenLen := rfl
@[simp] theorem State.raise_token (e : ErrorKind) : (State.raise e s).token = s.token := rfl
@[simp] theorem State.raise_codeLen (e : ErrorKind) : (State.raise e s).codeLen = s.codeLen := rfl
@[simp] theorem State.raise_code (e : ErrorKind) : (State.raise e s).code = s.code := rfl
@[simp] theorem State.raise_delta (e : ErrorKind) : (State.raise e s).delta = s.delta := rfl
@[simp] theorem State.raise_agenda (e : ErrorKind) : (State.raise e s).agenda = s.agenda := rfl
@[simp] theorem State.raise_reply (e : ErrorKind) : (State.raise e s).reply = s.reply := rfl

/-! ### issue: command issue (rule R63) -/

@[simp] theorem State.issue_cmd (v : Word) : (State.issue v s).cmd = v := rfl
@[simp] theorem State.issue_busy (v : Word) : (State.issue v s).busy = true := rfl
@[simp] theorem State.issue_done (v : Word) : (State.issue v s).done = false := rfl
@[simp] theorem State.issue_matched (v : Word) : (State.issue v s).matched = false := rfl
@[simp] theorem State.issue_err (v : Word) : (State.issue v s).err = 0 := rfl
@[simp] theorem State.issue_cfgHash (v : Word) : (State.issue v s).cfgHash = s.cfgHash := rfl
@[simp] theorem State.issue_cfgDigits (v : Word) : (State.issue v s).cfgDigits = s.cfgDigits := rfl
@[simp] theorem State.issue_window (v : Word) : (State.issue v s).window = s.window := rfl
@[simp] theorem State.issue_counter (v : Word) : (State.issue v s).counter = s.counter := rfl
@[simp] theorem State.issue_timestep (v : Word) : (State.issue v s).timestep = s.timestep := rfl
@[simp] theorem State.issue_nowMs (v : Word) : (State.issue v s).nowMs = s.nowMs := rfl
@[simp] theorem State.issue_keyLen (v : Word) : (State.issue v s).keyLen = s.keyLen := rfl
@[simp] theorem State.issue_key (v : Word) : (State.issue v s).key = s.key := rfl
@[simp] theorem State.issue_tokenLen (v : Word) : (State.issue v s).tokenLen = s.tokenLen := rfl
@[simp] theorem State.issue_token (v : Word) : (State.issue v s).token = s.token := rfl
@[simp] theorem State.issue_codeLen (v : Word) : (State.issue v s).codeLen = 0 := rfl
@[simp] theorem State.issue_code (v : Word) : (State.issue v s).code = Vector.replicate 12 0 := rfl
@[simp] theorem State.issue_delta (v : Word) : (State.issue v s).delta = 0 := rfl
@[simp] theorem State.issue_agenda (v : Word) : (State.issue v s).agenda = s.agenda := rfl
@[simp] theorem State.issue_reply (v : Word) : (State.issue v s).reply = s.reply := rfl

/-! ### resetBlock: reset (rule R210) -/

@[simp] theorem State.resetBlock_cmd : (State.resetBlock s).cmd = State.reset.cmd := rfl
@[simp] theorem State.resetBlock_busy : (State.resetBlock s).busy = State.reset.busy := rfl
@[simp] theorem State.resetBlock_done : (State.resetBlock s).done = State.reset.done := rfl
@[simp] theorem State.resetBlock_matched : (State.resetBlock s).matched = State.reset.matched := rfl
@[simp] theorem State.resetBlock_err : (State.resetBlock s).err = State.reset.err := rfl
@[simp] theorem State.resetBlock_cfgHash : (State.resetBlock s).cfgHash = State.reset.cfgHash := rfl
@[simp] theorem State.resetBlock_cfgDigits : (State.resetBlock s).cfgDigits = State.reset.cfgDigits := rfl
@[simp] theorem State.resetBlock_window : (State.resetBlock s).window = State.reset.window := rfl
@[simp] theorem State.resetBlock_counter : (State.resetBlock s).counter = State.reset.counter := rfl
@[simp] theorem State.resetBlock_timestep : (State.resetBlock s).timestep = State.reset.timestep := rfl
@[simp] theorem State.resetBlock_nowMs : (State.resetBlock s).nowMs = State.reset.nowMs := rfl
@[simp] theorem State.resetBlock_keyLen : (State.resetBlock s).keyLen = State.reset.keyLen := rfl
@[simp] theorem State.resetBlock_key : (State.resetBlock s).key = rep 0 s.keyMax := rfl
@[simp] theorem State.resetBlock_tokenLen : (State.resetBlock s).tokenLen = State.reset.tokenLen := rfl
@[simp] theorem State.resetBlock_token : (State.resetBlock s).token = State.reset.token := rfl
@[simp] theorem State.resetBlock_codeLen : (State.resetBlock s).codeLen = State.reset.codeLen := rfl
@[simp] theorem State.resetBlock_code : (State.resetBlock s).code = State.reset.code := rfl
@[simp] theorem State.resetBlock_delta : (State.resetBlock s).delta = State.reset.delta := rfl
@[simp] theorem State.resetBlock_agenda : (State.resetBlock s).agenda = s.agenda := rfl
@[simp] theorem State.resetBlock_reply : (State.resetBlock s).reply = State.reset.reply := rfl

/-! ### answer: the bus's answer -/

@[simp] theorem State.answer_cmd (r : BusReply) : (State.answer r s).cmd = s.cmd := rfl
@[simp] theorem State.answer_busy (r : BusReply) : (State.answer r s).busy = s.busy := rfl
@[simp] theorem State.answer_done (r : BusReply) : (State.answer r s).done = s.done := rfl
@[simp] theorem State.answer_matched (r : BusReply) : (State.answer r s).matched = s.matched := rfl
@[simp] theorem State.answer_err (r : BusReply) : (State.answer r s).err = s.err := rfl
@[simp] theorem State.answer_cfgHash (r : BusReply) : (State.answer r s).cfgHash = s.cfgHash := rfl
@[simp] theorem State.answer_cfgDigits (r : BusReply) : (State.answer r s).cfgDigits = s.cfgDigits := rfl
@[simp] theorem State.answer_window (r : BusReply) : (State.answer r s).window = s.window := rfl
@[simp] theorem State.answer_counter (r : BusReply) : (State.answer r s).counter = s.counter := rfl
@[simp] theorem State.answer_timestep (r : BusReply) : (State.answer r s).timestep = s.timestep := rfl
@[simp] theorem State.answer_nowMs (r : BusReply) : (State.answer r s).nowMs = s.nowMs := rfl
@[simp] theorem State.answer_keyLen (r : BusReply) : (State.answer r s).keyLen = s.keyLen := rfl
@[simp] theorem State.answer_key (r : BusReply) : (State.answer r s).key = s.key := rfl
@[simp] theorem State.answer_tokenLen (r : BusReply) : (State.answer r s).tokenLen = s.tokenLen := rfl
@[simp] theorem State.answer_token (r : BusReply) : (State.answer r s).token = s.token := rfl
@[simp] theorem State.answer_codeLen (r : BusReply) : (State.answer r s).codeLen = s.codeLen := rfl
@[simp] theorem State.answer_code (r : BusReply) : (State.answer r s).code = s.code := rfl
@[simp] theorem State.answer_delta (r : BusReply) : (State.answer r s).delta = s.delta := rfl
@[simp] theorem State.answer_agenda (r : BusReply) : (State.answer r s).agenda = s.agenda := rfl
@[simp] theorem State.answer_reply (r : BusReply) : (State.answer r s).reply = r := rfl

/-! ### withAgenda: taking an event -/

@[simp] theorem State.withAgenda_cmd (rest : List Event) : (State.withAgenda rest s).cmd = s.cmd := rfl
@[simp] theorem State.withAgenda_busy (rest : List Event) : (State.withAgenda rest s).busy = s.busy := rfl
@[simp] theorem State.withAgenda_done (rest : List Event) : (State.withAgenda rest s).done = s.done := rfl
@[simp] theorem State.withAgenda_matched (rest : List Event) : (State.withAgenda rest s).matched = s.matched := rfl
@[simp] theorem State.withAgenda_err (rest : List Event) : (State.withAgenda rest s).err = s.err := rfl
@[simp] theorem State.withAgenda_cfgHash (rest : List Event) : (State.withAgenda rest s).cfgHash = s.cfgHash := rfl
@[simp] theorem State.withAgenda_cfgDigits (rest : List Event) : (State.withAgenda rest s).cfgDigits = s.cfgDigits := rfl
@[simp] theorem State.withAgenda_window (rest : List Event) : (State.withAgenda rest s).window = s.window := rfl
@[simp] theorem State.withAgenda_counter (rest : List Event) : (State.withAgenda rest s).counter = s.counter := rfl
@[simp] theorem State.withAgenda_timestep (rest : List Event) : (State.withAgenda rest s).timestep = s.timestep := rfl
@[simp] theorem State.withAgenda_nowMs (rest : List Event) : (State.withAgenda rest s).nowMs = s.nowMs := rfl
@[simp] theorem State.withAgenda_keyLen (rest : List Event) : (State.withAgenda rest s).keyLen = s.keyLen := rfl
@[simp] theorem State.withAgenda_key (rest : List Event) : (State.withAgenda rest s).key = s.key := rfl
@[simp] theorem State.withAgenda_tokenLen (rest : List Event) : (State.withAgenda rest s).tokenLen = s.tokenLen := rfl
@[simp] theorem State.withAgenda_token (rest : List Event) : (State.withAgenda rest s).token = s.token := rfl
@[simp] theorem State.withAgenda_codeLen (rest : List Event) : (State.withAgenda rest s).codeLen = s.codeLen := rfl
@[simp] theorem State.withAgenda_code (rest : List Event) : (State.withAgenda rest s).code = s.code := rfl
@[simp] theorem State.withAgenda_delta (rest : List Event) : (State.withAgenda rest s).delta = s.delta := rfl
@[simp] theorem State.withAgenda_agenda (rest : List Event) : (State.withAgenda rest s).agenda = rest := rfl
@[simp] theorem State.withAgenda_reply (rest : List Event) : (State.withAgenda rest s).reply = s.reply := rfl

/-! ### writeCode: what GEN and TGEN write (rules R150, R171) -/

@[simp] theorem State.writeCode_cmd (n : Nat) (c : List Byte) : (State.writeCode n c s).cmd = s.cmd := rfl
@[simp] theorem State.writeCode_busy (n : Nat) (c : List Byte) : (State.writeCode n c s).busy = s.busy := rfl
@[simp] theorem State.writeCode_done (n : Nat) (c : List Byte) : (State.writeCode n c s).done = s.done := rfl
@[simp] theorem State.writeCode_matched (n : Nat) (c : List Byte) : (State.writeCode n c s).matched = s.matched := rfl
@[simp] theorem State.writeCode_err (n : Nat) (c : List Byte) : (State.writeCode n c s).err = s.err := rfl
@[simp] theorem State.writeCode_cfgHash (n : Nat) (c : List Byte) : (State.writeCode n c s).cfgHash = s.cfgHash := rfl
@[simp] theorem State.writeCode_cfgDigits (n : Nat) (c : List Byte) : (State.writeCode n c s).cfgDigits = s.cfgDigits := rfl
@[simp] theorem State.writeCode_window (n : Nat) (c : List Byte) : (State.writeCode n c s).window = s.window := rfl
@[simp] theorem State.writeCode_counter (n : Nat) (c : List Byte) : (State.writeCode n c s).counter = s.counter := rfl
@[simp] theorem State.writeCode_timestep (n : Nat) (c : List Byte) : (State.writeCode n c s).timestep = s.timestep := rfl
@[simp] theorem State.writeCode_nowMs (n : Nat) (c : List Byte) : (State.writeCode n c s).nowMs = s.nowMs := rfl
@[simp] theorem State.writeCode_keyLen (n : Nat) (c : List Byte) : (State.writeCode n c s).keyLen = s.keyLen := rfl
@[simp] theorem State.writeCode_key (n : Nat) (c : List Byte) : (State.writeCode n c s).key = s.key := rfl
@[simp] theorem State.writeCode_tokenLen (n : Nat) (c : List Byte) : (State.writeCode n c s).tokenLen = s.tokenLen := rfl
@[simp] theorem State.writeCode_token (n : Nat) (c : List Byte) : (State.writeCode n c s).token = s.token := rfl
@[simp] theorem State.writeCode_codeLen (n : Nat) (c : List Byte) : (State.writeCode n c s).codeLen = BitVec.ofNat 4 n := rfl
@[simp] theorem State.writeCode_code (n : Nat) (c : List Byte) : (State.writeCode n c s).code = codeBuffer c := rfl
@[simp] theorem State.writeCode_delta (n : Nat) (c : List Byte) : (State.writeCode n c s).delta = s.delta := rfl
@[simp] theorem State.writeCode_agenda (n : Nat) (c : List Byte) : (State.writeCode n c s).agenda = s.agenda := rfl
@[simp] theorem State.writeCode_reply (n : Nat) (c : List Byte) : (State.writeCode n c s).reply = s.reply := rfl

/-! ### eraseSecrets: what ZEROIZE writes (rule R180) -/

@[simp] theorem State.eraseSecrets_cmd : (State.eraseSecrets s).cmd = s.cmd := rfl
@[simp] theorem State.eraseSecrets_busy : (State.eraseSecrets s).busy = s.busy := rfl
@[simp] theorem State.eraseSecrets_done : (State.eraseSecrets s).done = s.done := rfl
@[simp] theorem State.eraseSecrets_matched : (State.eraseSecrets s).matched = s.matched := rfl
@[simp] theorem State.eraseSecrets_err : (State.eraseSecrets s).err = s.err := rfl
@[simp] theorem State.eraseSecrets_cfgHash : (State.eraseSecrets s).cfgHash = s.cfgHash := rfl
@[simp] theorem State.eraseSecrets_cfgDigits : (State.eraseSecrets s).cfgDigits = s.cfgDigits := rfl
@[simp] theorem State.eraseSecrets_window : (State.eraseSecrets s).window = s.window := rfl
@[simp] theorem State.eraseSecrets_counter : (State.eraseSecrets s).counter = s.counter := rfl
@[simp] theorem State.eraseSecrets_timestep : (State.eraseSecrets s).timestep = s.timestep := rfl
@[simp] theorem State.eraseSecrets_nowMs : (State.eraseSecrets s).nowMs = s.nowMs := rfl
@[simp] theorem State.eraseSecrets_keyLen : (State.eraseSecrets s).keyLen = 0 := rfl
@[simp] theorem State.eraseSecrets_key : (State.eraseSecrets s).key = rep 0 s.keyMax := rfl
@[simp] theorem State.eraseSecrets_tokenLen : (State.eraseSecrets s).tokenLen = 0 := rfl
@[simp] theorem State.eraseSecrets_token : (State.eraseSecrets s).token = Vector.replicate 16 0 := rfl
@[simp] theorem State.eraseSecrets_codeLen : (State.eraseSecrets s).codeLen = s.codeLen := rfl
@[simp] theorem State.eraseSecrets_code : (State.eraseSecrets s).code = s.code := rfl
@[simp] theorem State.eraseSecrets_delta : (State.eraseSecrets s).delta = s.delta := rfl
@[simp] theorem State.eraseSecrets_agenda : (State.eraseSecrets s).agenda = s.agenda := rfl
@[simp] theorem State.eraseSecrets_reply : (State.eraseSecrets s).reply = s.reply := rfl

end Sys2Proof.Machine
end

