-- ==== Sys2Proof/Laws/Bus.lean ====
section
/-! SUPPORT. The register map of rule R20: names and offsets agree, and what a host write of one register leaves
unchanged. -/

namespace Sys2Proof.Machine

/-- Every register the map has is found at its own offset. -/
theorem regAt_offset (keyMax : Nat) (r : Reg) (h : r.present keyMax = true) : regAt keyMax r.offset = some r := by
  have low (off : Nat) (h : off < 0x100) : regAt keyMax off = fixedRegs.find? fun r => r.offset = off := by
    rw [regAt, if_neg (by omega)]
  cases r <;> simp only [Reg.present, decide_eq_true_eq] at h
  case tokenW k =>
    obtain rfl | rfl | rfl | rfl : k = 0 ∨ k = 1 ∨ k = 2 ∨ k = 3 := by omega
    all_goals exact low _ (by decide)
  case codeW k =>
    obtain rfl | rfl | rfl : k = 0 ∨ k = 1 ∨ k = 2 := by omega
    all_goals exact low _ (by decide)
  case keyW k =>
    simp only [Reg.offset]
    rw [regAt, if_pos (by omega), show (0x100 + 4 * k - 0x100) / 4 = k by omega]
  all_goals exact low _ (by decide)

/-- A register found at an aligned offset stands at that offset. -/
theorem offset_of_regAt (keyMax off : Nat) (r : Reg) (ha : off % 4 = 0) (h : regAt keyMax off = some r) :
    r.offset = off := by
  unfold regAt at h
  split at h
  · cases h
    simp only [Reg.offset]
    omega
  · simpa using List.find?_some h

/-- The reserved offsets: 0x01C, 0x058 to 0x0FC (so all below 0x100) and everything from 0x100+KEY_MAX (rule R64). -/
theorem regAt_reserved (keyMax off : Nat) (h : off = 0x01C ∨ (0x058 ≤ off ∧ off ≤ 0x0FF) ∨ 0x100 + keyMax ≤ off) :
    regAt keyMax off = none := by
  rw [regAt, if_neg (by omega)]
  have all : ∀ r ∈ fixedRegs, r.offset ≤ 0x054 ∧ r.offset ≠ 0x01C := by decide
  refine List.find?_eq_none.mpr fun r hr => ?_
  have := all r hr
  simp only [decide_eq_true_eq]
  omega

/-- A host read of a register that the map has (rule R61). -/
theorem memRead_offset (s : State) (r : Reg) (h : r.present s.keyMax = true) : s.memRead r.offset = s.readReg r := by
  simp [State.memRead, regAt_offset _ _ h]

/-- A host write of a register that the map has, while BUSY = 0 (rule R62). -/
theorem memWrite_offset (s : State) (r : Reg) (v : Word) (hb : s.busy = false) (h : r.present s.keyMax = true) :
    s.memWrite r.offset v = s.writeReg r v := by
  simp [State.memWrite, hb, regAt_offset _ _ h]

/-- While BUSY a host write changes nothing (rule R62). -/
theorem memWrite_of_busy (s : State) (off : Nat) (v : Word) (hb : s.busy = true) : s.memWrite off v = s := by
  simp [State.memWrite, hb]

/-- A register other than a KEY word stands below offset 0x100. -/
theorem regAt_of_lt (keyMax off : Nat) (h : off < 0x100) :
    regAt keyMax off = fixedRegs.find? fun r => r.offset = off := by rw [regAt, if_neg (by omega)]

/-- Every offset from 0x058 on reads 0: reserved, or a KEY word (rules R33, R64). -/
theorem memRead_of_ge (s : State) (off : Nat) (h : 0x058 ≤ off) : s.memRead off = 0 := by
  by_cases hk : 0x100 ≤ off ∧ off < 0x100 + s.keyMax
  · simp [State.memRead, regAt, hk, State.readReg]
  · rw [State.memRead, regAt_reserved _ _ (by omega)]

/-! One lemma per register: what a host write of it does (rule R62). -/

@[simp] theorem writeReg_cmd (s : State) (v : Word) :
    s.writeReg .cmd v = s.issue v := rfl

@[simp] theorem writeReg_status (s : State) (v : Word) :
    s.writeReg .status v = s := rfl

@[simp] theorem writeReg_cfg (s : State) (v : Word) :
    s.writeReg .cfg v = { s with cfgHash := v.extractLsb' 0 2, cfgDigits := v.extractLsb' 8 4 } := rfl

@[simp] theorem writeReg_window (s : State) (v : Word) :
    s.writeReg .window v = { s with window := v } := rfl

@[simp] theorem writeReg_counterHi (s : State) (v : Word) :
    s.writeReg .counterHi v = { s with counter := withHi s.counter v } := rfl

@[simp] theorem writeReg_counterLo (s : State) (v : Word) :
    s.writeReg .counterLo v = { s with counter := withLo s.counter v } := rfl

@[simp] theorem writeReg_timestep (s : State) (v : Word) :
    s.writeReg .timestep v = { s with timestep := v } := rfl

@[simp] theorem writeReg_nowMsHi (s : State) (v : Word) :
    s.writeReg .nowMsHi v = { s with nowMs := withHi s.nowMs v } := rfl

@[simp] theorem writeReg_nowMsLo (s : State) (v : Word) :
    s.writeReg .nowMsLo v = { s with nowMs := withLo s.nowMs v } := rfl

@[simp] theorem writeReg_keyLen (s : State) (v : Word) :
    s.writeReg .keyLen v = { s with keyLen := v.extractLsb' 0 16 } := rfl

@[simp] theorem writeReg_tokenLen (s : State) (v : Word) :
    s.writeReg .tokenLen v = { s with tokenLen := v.extractLsb' 0 8 } := rfl

@[simp] theorem writeReg_tokenW (s : State) (v : Word) (k : Nat) :
    s.writeReg (.tokenW k) v = { s with token := storeTokenWord s.token k v } := rfl

@[simp] theorem writeReg_codeLen (s : State) (v : Word) :
    s.writeReg .codeLen v = s := rfl

@[simp] theorem writeReg_codeW (s : State) (v : Word) (k : Nat) :
    s.writeReg (.codeW k) v = s := rfl

@[simp] theorem writeReg_deltaHi (s : State) (v : Word) :
    s.writeReg .deltaHi v = s := rfl

@[simp] theorem writeReg_deltaLo (s : State) (v : Word) :
    s.writeReg .deltaLo v = s := rfl

@[simp] theorem writeReg_keyW (s : State) (v : Word) (k : Nat) :
    s.writeReg (.keyW k) v = { s with key := storeWord s.key k v } := rfl

/-- No host write changes the size of KEY, the events to come or the last answer. -/
theorem writeReg_keeps (s : State) (r : Reg) (v : Word) :
    (s.writeReg r v).key.length = s.key.length ∧ (s.writeReg r v).agenda = s.agenda ∧
      (s.writeReg r v).reply = s.reply := by
  cases r <;> simp [State.writeReg]

/-- Everything a host write can do: command issue at CMD, or a change of operand registers that leaves CMD, STATUS and
the results alone. -/
theorem writeReg_cases (s : State) (r : Reg) (v : Word) :
    (r = .cmd ∧ s.writeReg r v = s.issue v) ∨
      (r ≠ .cmd ∧ ∃ h d w c ts n kl k tl tk, k.length = s.key.length ∧ s.writeReg r v =
        { s with cfgHash := h, cfgDigits := d, window := w, counter := c, timestep := ts, nowMs := n, keyLen := kl, key := k, tokenLen := tl, token := tk }) := by
  cases r
  case cmd => exact .inl ⟨rfl, rfl⟩
  case keyW k => exact .inr ⟨by simp, _, _, _, _, _, _, _, _, _, _, storeWord_length _ _ _, rfl⟩
  all_goals exact .inr ⟨by simp, _, _, _, _, _, _, _, _, _, _, rfl, rfl⟩

/-- Everything `memWrite` can do. -/
theorem memWrite_cases (s : State) (off : Nat) (v : Word) (ha : off % 4 = 0) :
    s.memWrite off v = s ∨
      (s.busy = false ∧ off = 0 ∧ s.memWrite off v = s.issue v) ∨
      (s.busy = false ∧ off ≠ 0 ∧ ∃ h d w c ts n kl k tl tk, k.length = s.key.length ∧ s.memWrite off v =
        { s with cfgHash := h, cfgDigits := d, window := w, counter := c, timestep := ts, nowMs := n, keyLen := kl, key := k, tokenLen := tl, token := tk }) := by
  by_cases hb : s.busy = true
  · left; simp [State.memWrite, hb]
  · have hb : s.busy = false := by simpa using hb
    cases hr : regAt s.keyMax off with
    | none => left; simp [State.memWrite, hb, hr]
    | some r =>
      have ho := offset_of_regAt _ _ _ ha hr
      have hm : s.memWrite off v = s.writeReg r v := by simp [State.memWrite, hb, hr]
      rw [hm]
      obtain ⟨rfl, hi⟩ | ⟨hne, hw⟩ := writeReg_cases s r v
      · exact .inr (.inl ⟨hb, ho.symm, hi⟩)
      · refine .inr (.inr ⟨hb, ?_, hw⟩)
        intro h0
        subst h0
        cases hr
        exact hne rfl

end Sys2Proof.Machine
end

