-- ==== Sys2Proof/Laws/Hash.lean ====
section
/-! SUPPORT. Lengths through the hash functions and HMAC. -/

namespace Sys2Proof.Machine

theorem Sha1State.bytes_length (h : Sha1State) : h.bytes.length = 20 := by simp [Sha1State.bytes]

theorem Sha2State.bytes_length {w : Nat} (h : Sha2State w) : h.bytes.length = 8 * (w / 8) := by
  simp only [Sha2State.bytes, List.length_append, beBytes_length]
  omega

/-- The digest length of each hash (rule R122). -/
theorem digest_length (h : Hash) (msg : List Byte) : (h.digest msg).length = h.digestBytes := by
  cases h
  · exact Sha1State.bytes_length _
  · exact Sha2State.bytes_length _
  · exact Sha2State.bytes_length _

theorem blockBytes_pos (h : Hash) : 0 < h.blockBytes := by cases h <;> decide

theorem digestBytes_le_blockBytes (h : Hash) : h.digestBytes ≤ h.blockBytes := by cases h <;> decide

/-- The parts of a padded message (rule R123). -/
theorem padMessage_length (msg : List Byte) (b f : Nat) :
    (padMessage msg b f).length = msg.length + 1 + zeroFill msg.length b f + f := by
  simp [padMessage]
  omega

theorem messageBlocks_length (b : Nat) (padded : List Byte) :
    (messageBlocks b padded).length = padded.length / b := by
  simp [messageBlocks]

/-- A message of n bytes takes ceil((n + 1 + F) / B) blocks, the least number that holds it, the 0x80 byte and the length
field (rules R123 and R130). -/
theorem messageBlocks_padMessage_length (h : Hash) (msg : List Byte) :
    (messageBlocks h.blockBytes (padMessage msg h.blockBytes h.lengthBytes)).length =
      (msg.length + 1 + h.lengthBytes + (h.blockBytes - 1)) / h.blockBytes := by
  rw [messageBlocks_length, padMessage_length]
  cases h <;> simp only [Hash.blockBytes, Hash.lengthBytes, zeroFill] <;> omega

/-- k0 is exactly one block (rule R121). -/
@[simp] theorem hmacKey_length (h : Hash) (key : List Byte) : (hmacKey h key).length = h.blockBytes := by
  have := digestBytes_le_blockBytes h
  simp only [hmacKey]
  split <;> simp [digest_length] <;> omega

theorem hmac_length (h : Hash) (key msg : List Byte) : (hmac h key msg).length = h.digestBytes := digest_length _ _

end Sys2Proof.Machine
end

