-- ==== Sys2Proof/Laws/Engine.lean ====
section
/-! SUPPORT. The engine's functions: one lemma per function that callers cite. -/

namespace Sys2Proof.Machine

@[simp] theorem counterBytes_length (c : Int) : (counterBytes c).length = 8 := beBytes_length _ _

/-- The counter bytes read as the counter's 64-bit pattern. -/
theorem intBe_counterBytes (c : Int) : intBe (counterBytes c) = (BitVec.ofInt 64 c).toNat := by
  rw [counterBytes, intBe_beBytes]
  exact Nat.mod_eq_of_lt (BitVec.ofInt 64 c).isLt

@[simp] theorem decimal_length (m n : Nat) : (decimal m n).length = n := by simp [decimal]

theorem decimal_getElem (m n j : Nat) (h : j < (decimal m n).length) :
    (decimal m n)[j] = BitVec.ofNat 8 (0x30 + m / 10 ^ (n - 1 - j) % 10) := by simp [decimal]

/-- Each byte of a decimal string is its digit's ASCII code (rule R88). -/
theorem decimal_getElem_toNat (m n j : Nat) (h : j < (decimal m n).length) :
    ((decimal m n)[j]).toNat = 0x30 + m / 10 ^ (n - 1 - j) % 10 := by
  rw [decimal_getElem, BitVec.toNat_ofNat]
  have : m / 10 ^ (n - 1 - j) % 10 < 10 := Nat.mod_lt _ (by decide)
  omega

@[simp] theorem otp_length (key : List Byte) (c : Int) (h : Hash) (n : Nat) : (otp key c h n).length = n :=
  decimal_length _ _

/-- The bytes of the CODE buffer that holds a code. -/
theorem codeBuffer_getElem (code : List Byte) (j : Nat) (h : j < 12) : (codeBuffer code)[j] = byteAt code j := by
  simp [codeBuffer]

theorem byteAt_of_lt (bs : List Byte) (j : Nat) (h : j < bs.length) : byteAt bs j = bs[j] := by
  simp [byteAt, h]

theorem byteAt_of_le (bs : List Byte) (j : Nat) (h : bs.length ≤ j) : byteAt bs j = 0 := by
  simp [byteAt, h]

/-- The CODE buffer that holds a code of n ≤ 12 bytes: the code, then zeros (rule R150). -/
theorem codeBuffer_toList (code : List Byte) (h : code.length ≤ 12) :
    (codeBuffer code).toList = code ++ List.replicate (12 - code.length) 0 := by
  apply List.ext_getElem
  · simp
    omega
  intro j h₁ h₂
  rw [Vector.getElem_toList, codeBuffer_getElem _ _ (by simpa using h₁), List.getElem_append]
  split
  · rw [byteAt_of_lt]
  · rw [byteAt_of_le _ _ (by omega), List.getElem_replicate]

/-- Token equality as a proposition: the lengths agree and so does every byte (rule R107). -/
theorem tokenEqual_iff (n : Nat) (token : Vector Byte 16) (code : List Byte) :
    tokenEqual n token code = true ↔ n = code.length ∧ ∀ j, j < code.length → token.toList[j]? = code[j]? := by
  simp [tokenEqual]

/-- A token of another length than the code is not equal to it (rule R155). -/
theorem tokenEqual_of_length_ne (n : Nat) (token : Vector Byte 16) (code : List Byte) (h : n ≠ code.length) :
    tokenEqual n token code = false := by
  simp [tokenEqual, h]

end Sys2Proof.Machine
end

