-- ==== Sys2Proof/Laws/Ops.lean ====
section
/-! SUPPORT. Validation and the two ways a validating command ends, said once (rules R191, R193). -/

namespace Sys2Proof.Machine

/-- The operands a command has beyond those all four validate are legal (rule R191). -/
abbrev OwnOperandOk (cmd : Instr) (s : State) : Prop :=
  (cmd = .verify → 0 ≤ s.windowInt) ∧ (cmd = .tgen ∨ cmd = .tverify → s.timestepNat ≠ 0)

/-- Validation passes exactly on legal operands, and hands on the secret, the hash and the digit count. -/
theorem validate_eq_ok_iff (cmd : Instr) (s : State) (x : Inputs) :
    validate cmd s = .ok x ↔
      1 ≤ s.keyLen.toNat ∧ s.keyLen.toNat ≤ s.keyMax ∧ hashOfSelector s.cfgHash = some x.hash ∧ 1 ≤ s.digits ∧
        s.digits ≤ 10 ∧ OwnOperandOk cmd s ∧ x.key = s.secret ∧ x.digits = s.digits := by
  obtain ⟨k, h, d⟩ := x
  by_cases h₁ : s.keyLen.toNat = 0 ∨ s.keyMax < s.keyLen.toNat
  · simp only [validate, h₁, if_true, reduceCtorEq, false_iff]
    omega
  cases hh : hashOfSelector s.cfgHash with
  | none => simp [validate, h₁, hh]
  | some h' =>
    simp only [validate, h₁, hh, if_false]
    by_cases h₂ : s.digits < 1 ∨ 10 < s.digits
    · simp only [h₂, if_true, reduceCtorEq, false_iff]
      omega
    by_cases h₃ : cmd = .verify ∧ s.windowInt < 0
    · rw [if_neg h₂, if_pos h₃]
      simp only [reduceCtorEq, false_iff]
      rintro ⟨-, -, -, -, -, ⟨hw, -⟩, -⟩
      exact absurd (hw h₃.1) (by omega)
    by_cases h₄ : (cmd = .tgen ∨ cmd = .tverify) ∧ s.timestepNat = 0
    · rw [if_neg h₂, if_neg h₃, if_pos h₄]
      simp only [reduceCtorEq, false_iff]
      rintro ⟨-, -, -, -, -, ⟨-, ht⟩, -⟩
      exact ht h₄.1 h₄.2
    simp only [h₂, h₃, h₄, if_false, Except.ok.injEq, Inputs.mk.injEq, Option.some.injEq]
    constructor
    · rintro ⟨rfl, rfl, rfl⟩
      exact ⟨by omega, by omega, rfl, by omega, by omega,
        ⟨fun hc => by by_contra hw; exact h₃ ⟨hc, by omega⟩, fun hc ht => h₄ ⟨hc, ht⟩⟩, rfl, rfl⟩
    · rintro ⟨-, -, rfl, -, -, -, rfl, rfl⟩
      exact ⟨rfl, rfl, rfl⟩

/-- A validating command on legal operands completes with its effect. -/
theorem withInputs_of_ok {cmd : Instr} {s : State} {x : Inputs} (f : Inputs → State) (h : validate cmd s = .ok x) :
    withInputs cmd s f = .next (f x).complete := by simp [withInputs, h]

/-- A validating command on an illegal operand completes with error entry and nothing else. -/
theorem withInputs_of_error {cmd : Instr} {s : State} {e : ErrorKind} (f : Inputs → State)
    (h : validate cmd s = .error e) : withInputs cmd s f = .next (s.raise e) := by simp [withInputs, h]

/-- Everything a validating command can do. -/
theorem withInputs_cases (cmd : Instr) (s : State) (f : Inputs → State) :
    (∃ e, validate cmd s = .error e ∧ withInputs cmd s f = .next (s.raise e)) ∨
      ∃ x, validate cmd s = .ok x ∧ withInputs cmd s f = .next (f x).complete := by
  cases h : validate cmd s with
  | error e => exact .inl ⟨e, rfl, withInputs_of_error f h⟩
  | ok x => exact .inr ⟨x, rfl, withInputs_of_ok f h⟩

/-- The error of validation is the first of rule R192's order, by the registers. -/
theorem validate_eq_error_cases {cmd : Instr} {s : State} {e : ErrorKind} (h : validate cmd s = .error e) :
    e = .invalidSecret ∨ e = .unsupportedHash ∨ e = .invalidDigits ∨ (e = .invalidWindow ∧ cmd = .verify) ∨
      (e = .invalidTimeStep ∧ (cmd = .tgen ∨ cmd = .tverify)) := by
  unfold validate at h
  split at h
  · cases h; simp
  split at h
  · cases h; simp
  split at h
  · cases h; simp
  split at h
  · cases h; simp_all
  split at h
  · cases h; simp_all
  · cases h

/-- An access that rule R67 allows, and one it does not. -/
theorem accessOk_iff (width off : Nat) : accessOk width off = true ↔ width = 4 ∧ off % 4 = 0 ∧ off < 0x1000 := by
  simp [accessOk]

/-- Everything a host write can do: a refusal, or `memWrite` at an aligned offset of the space (rules R62, R67). -/
theorem hostWrite_cases (s : State) (width off : Nat) (v : Word) :
    s.hostWrite width off v = s.answer .refused ∨
      (width = 4 ∧ off % 4 = 0 ∧ off < 0x1000 ∧ s.hostWrite width off v = (s.memWrite off v).answer .written) := by
  cases h : accessOk width off with
  | true =>
    obtain ⟨h₁, h₂, h₃⟩ := (accessOk_iff width off).mp h
    exact .inr ⟨h₁, h₂, h₃, by simp [State.hostWrite, h]⟩
  | false => exact .inl (by simp [State.hostWrite, h])

end Sys2Proof.Machine
end

