-- ==== Sys2Proof/Laws/PerInstr.lean ====
section
/-! SUPPORT. Statements about every command as syntax, one lemma per constructor of `Instr`. -/

namespace Sys2Proof.Laws

/-- The word of a command as rule R80 lays it out: the command is well formed, its word passes both checks, OP holds one
of the five codes and ZERO is 0. -/
def CommandWord.Statement (i : Instr) : Prop :=
  i.wf = true ∧ Sys2Proof.CommandWord.wf (encode i) = true ∧ 1 ≤ (opField (encode i)).toNat ∧
    (opField (encode i)).toNat ≤ 5 ∧ zeroField (encode i) = 0

theorem CommandWord.gen : CommandWord.Statement .gen := by
  simp only [CommandWord.Statement]
  decide

theorem CommandWord.verify : CommandWord.Statement .verify := by
  simp only [CommandWord.Statement]
  decide

theorem CommandWord.tgen : CommandWord.Statement .tgen := by
  simp only [CommandWord.Statement]
  decide

theorem CommandWord.tverify : CommandWord.Statement .tverify := by
  simp only [CommandWord.Statement]
  decide

theorem CommandWord.zeroize : CommandWord.Statement .zeroize := by
  simp only [CommandWord.Statement]
  decide

end Sys2Proof.Laws
end

