-- ==== Sys2Proof/Laws/Search.lean ====
section
/-! SUPPORT. The ascending search of VERIFY: what it finds, once (rules R152, R153). -/

namespace Sys2Proof.Machine

/-- The search finds i exactly when i is the least hit in its range. -/
theorem firstHit_eq_some_iff (hit : Int → Bool) (n : Nat) (lo i : Int) :
    firstHit hit n lo = some i ↔
      lo ≤ i ∧ i < lo + n ∧ hit i = true ∧ ∀ j, lo ≤ j → j < i → hit j = false := by
  induction n generalizing lo with
  | zero => simp [firstHit]; omega
  | succ n ih =>
    rw [firstHit]
    split
    · rename_i hlo
      constructor
      · rintro ⟨rfl⟩
        exact ⟨le_refl _, by omega, hlo, by intro j h₁ h₂; omega⟩
      · rintro ⟨h₁, _, _, h₄⟩
        by_contra hne
        have := h₄ lo (le_refl _) (lt_of_le_of_ne h₁ (by simpa using hne))
        simp [hlo] at this
    · rename_i hlo
      rw [ih]
      constructor
      · rintro ⟨h₁, h₂, h₃, h₄⟩
        refine ⟨by omega, by omega, h₃, fun j h₅ h₆ => ?_⟩
        rcases eq_or_lt_of_le h₅ with rfl | h₇
        · simpa using hlo
        · exact h₄ j (by omega) h₆
      · rintro ⟨h₁, h₂, h₃, h₄⟩
        have : lo ≠ i := by rintro rfl; exact hlo h₃
        exact ⟨by omega, by omega, h₃, fun j h₅ h₆ => h₄ j (by omega) h₆⟩

/-- The search finds nothing exactly when no candidate is a hit. -/
theorem firstHit_eq_none_iff (hit : Int → Bool) (n : Nat) (lo : Int) :
    firstHit hit n lo = none ↔ ∀ j, lo ≤ j → j < lo + n → hit j = false := by
  induction n generalizing lo with
  | zero => simp [firstHit]; intro j; omega
  | succ n ih =>
    rw [firstHit]
    split
    · rename_i hlo
      simp only [reduceCtorEq, false_iff, not_forall]
      exact ⟨lo, le_refl _, by omega, by simp [hlo]⟩
    · rename_i hlo
      rw [ih]
      constructor
      · intro h j h₁ h₂
        rcases eq_or_lt_of_le h₁ with rfl | h₃
        · simpa using hlo
        · exact h j (by omega) (by omega)
      · exact fun h j h₁ h₂ => h j (by omega) (by omega)

/-- With a non-negative window the range of candidates holds the expected counter and nothing outside the 64-bit
counters (rule R153). -/
theorem search_range (c w : Int) (hc₁ : -2 ^ 63 ≤ c) (hc₂ : c ≤ 2 ^ 63 - 1) (hw : 0 ≤ w) :
    searchLo c w ≤ c ∧ c ≤ searchHi c w ∧ -2 ^ 63 ≤ searchLo c w ∧ searchHi c w ≤ 2 ^ 63 - 1 ∧
      c - w ≤ searchLo c w ∧ searchHi c w ≤ c + w := by
  simp only [searchLo, searchHi]
  omega

end Sys2Proof.Machine
end

