-- ==== Sys2Proof/Laws/Step.lean ====
section
/-! SUPPORT. Everything a command and a step can do, said once: later proofs take these cases and unfold neither `exec`
nor `step`. -/

namespace Sys2Proof.Machine

/-- Validation passes on legal operands, and hands on the secret, the hash and the digit count. -/
theorem validate_of_operable {s : State} {h : Hash} (cmd : Instr) (ho : s.Operable h) (hown : OwnOperandOk cmd s) :
    validate cmd s = .ok { key := s.secret, hash := h, digits := s.digits } := by
  obtain ⟨h₁, h₂, h₃, h₄, h₅⟩ := ho
  exact (validate_eq_ok_iff cmd s _).mpr ⟨h₁, h₂, h₃, h₄, h₅, hown, rfl, rfl⟩

/-- Everything a command's completion can do to a state (rules R150, R151, R171, R172, R180, R193). -/
theorem exec_cases (i : Instr) (s : State) :
    (∃ e, i ≠ .zeroize ∧ validate i s = .error e ∧ exec i s = .next (s.raise e)) ∨
      (∃ x, i = .gen ∧ validate .gen s = .ok x ∧
        exec i s = .next (s.writeCode x.digits (otp x.key s.counterInt x.hash x.digits)).complete) ∨
      (∃ x, i = .verify ∧ validate .verify s = .ok x ∧
        ((∃ c, windowSearch s x = some c ∧
            exec i s = .next (s.writeVerdict true (BitVec.ofInt 64 (c - s.counterInt))).complete) ∨
          (windowSearch s x = none ∧ exec i s = .next (s.writeVerdict false 0).complete))) ∨
      (∃ x, i = .tgen ∧ validate .tgen s = .ok x ∧
        exec i s = .next (s.writeCode x.digits (otp x.key s.derivedCounter x.hash x.digits)).complete) ∨
      (∃ x, i = .tverify ∧ validate .tverify s = .ok x ∧
        exec i s = .next (s.writeMatched
          (tokenEqual s.tokLen s.token (otp x.key s.derivedCounter x.hash x.digits))).complete) ∨
      (i = .zeroize ∧ exec i s = .next s.eraseSecrets.complete) := by
  cases i
  case gen =>
    obtain ⟨e, h, h'⟩ | ⟨x, h, h'⟩ := withInputs_cases .gen s
      fun x => s.writeCode x.digits (otp x.key s.counterInt x.hash x.digits)
    · exact .inl ⟨e, by simp, h, h'⟩
    · exact .inr (.inl ⟨x, rfl, h, h'⟩)
  case verify =>
    obtain ⟨e, h, h'⟩ | ⟨x, h, h'⟩ := withInputs_cases .verify s fun x =>
      match windowSearch s x with
      | some i => s.writeVerdict true (BitVec.ofInt 64 (i - s.counterInt))
      | none => s.writeVerdict false 0
    · exact .inl ⟨e, by simp, h, h'⟩
    · refine .inr (.inr (.inl ⟨x, rfl, h, ?_⟩))
      cases hs : windowSearch s x with
      | some c => exact .inl ⟨c, rfl, h'.trans (by simp only [hs])⟩
      | none => exact .inr ⟨rfl, h'.trans (by simp only [hs])⟩
  case tgen =>
    obtain ⟨e, h, h'⟩ | ⟨x, h, h'⟩ := withInputs_cases .tgen s
      fun x => s.writeCode x.digits (otp x.key s.derivedCounter x.hash x.digits)
    · exact .inl ⟨e, by simp, h, h'⟩
    · exact .inr (.inr (.inr (.inl ⟨x, rfl, h, h'⟩)))
  case tverify =>
    obtain ⟨e, h, h'⟩ | ⟨x, h, h'⟩ := withInputs_cases .tverify s
      fun x => s.writeMatched (tokenEqual s.tokLen s.token (otp x.key s.derivedCounter x.hash x.digits))
    · exact .inl ⟨e, by simp, h, h'⟩
    · exact .inr (.inr (.inr (.inr (.inl ⟨x, rfl, h, h'⟩))))
  case zeroize => exact .inr (.inr (.inr (.inr (.inr ⟨rfl, rfl⟩))))

/-- Every command completes with BUSY = 0 and DONE = 1, and leaves CMD, the agenda and the last answer (rule R85). -/
theorem exec_finishes (i : Instr) (s : State) :
    ∃ t, exec i s = .next t ∧ t.busy = false ∧ t.done = true ∧ t.cmd = s.cmd ∧ t.agenda = s.agenda ∧
      t.reply = s.reply := by
  obtain ⟨_, _, _, h⟩ | ⟨_, _, _, h⟩ | ⟨_, _, _, ⟨_, _, h⟩ | ⟨_, h⟩⟩ | ⟨_, _, _, h⟩ | ⟨_, _, _, h⟩ | ⟨_, h⟩ :=
    exec_cases i s <;> exact ⟨_, h, rfl, rfl, rfl, rfl, rfl⟩

/-- A step takes the event that comes first. -/
theorem step_of_event (s : State) (e : Event) (rest : List Event) (h : s.agenda = e :: rest) :
    step s = takeEvent e (s.withAgenda rest) := by simp [step, advance, h]

/-- A step at the engine's turn. -/
theorem step_of_engineNext (s : State) (h : s.EngineNext) : step s = engineTurn (s.withAgenda s.agenda.tail) := by
  obtain h | h := h
  · have hs : s.withAgenda s.agenda.tail = s := by
      cases s
      simp_all [State.withAgenda]
    rw [hs]
    simp [step, advance, h]
  · cases ha : s.agenda with
    | nil => simp [ha] at h
    | cons e rest =>
      simp only [ha, List.head?_cons, Option.some.injEq] at h
      subst h
      exact step_of_event s _ _ ha

/-- One aligned word read of a register the map has. -/
theorem step_read_reg (s : State) (rest : List Event) (r : Reg) (h : s.agenda = readEvent r :: rest)
    (hr : r.present s.keyMax = true) (ha : r.offset % 4 = 0 ∧ r.offset < 0x1000) :
    step s = .next ((s.withAgenda rest).answer (.data (s.readReg r))) := by
  have hm : (s.withAgenda rest).memRead r.offset = (s.withAgenda rest).readReg r := memRead_offset _ r hr
  rw [step_of_event s _ _ h, readEvent, takeEvent, State.hostRead, (accessOk_iff 4 r.offset).mpr ⟨rfl, ha⟩, if_pos rfl,
    hm]
  cases r <;> rfl

/-- One aligned word write of a register the map has, while BUSY = 0. -/
theorem step_write_reg (s : State) (rest : List Event) (r : Reg) (v : Word) (h : s.agenda = writeEvent r v :: rest)
    (hb : s.busy = false) (hr : r.present s.keyMax = true) (ha : r.offset % 4 = 0 ∧ r.offset < 0x1000) :
    step s = .next (((s.withAgenda rest).writeReg r v).answer .written) := by
  have hm : (s.withAgenda rest).memWrite r.offset v = (s.withAgenda rest).writeReg r v := memWrite_offset _ r v hb hr
  rw [step_of_event s _ _ h, writeEvent, takeEvent, State.hostWrite, (accessOk_iff 4 r.offset).mpr ⟨rfl, ha⟩,
    if_pos rfl, hm]

/-- A run of no steps stays where it is. -/
@[simp] theorem RunsTo_zero (s t : State) : s.RunsTo 0 t ↔ s = t := by
  constructor
  · intro h
    cases h
    rfl
  · rintro rfl
    rfl

/-- A step before a run. -/
theorem RunsTo_succ {s t u : State} {k : Nat} (h : step s = .next t) (hr : t.RunsTo k u) : s.RunsTo (k + 1) u := by
  have : Sys2Proof.core.step s = .next t := h
  simp only [State.RunsTo, Host.Core.run, this]
  exact hr

/-- Runs end to end. -/
theorem RunsTo_trans {s t u : State} {j k : Nat} (h : s.RunsTo j t) (hr : t.RunsTo k u) : s.RunsTo (j + k) u := by
  induction j generalizing s with
  | zero =>
    rw [RunsTo_zero] at h
    subst h
    rwa [Nat.zero_add]
  | succ j ih =>
    rw [Nat.succ_add]
    cases hs : step s with
    | next v =>
      refine RunsTo_succ hs (ih ?_)
      have : Sys2Proof.core.step s = .next v := hs
      simpa only [State.RunsTo, Host.Core.run, this] using h
    | fault r => cases r
    | refused r =>
      have : Sys2Proof.core.step s = .refused r := hs
      simp [State.RunsTo, Host.Core.run, this] at h

/-- A word decodes to a command only if it is that command's word. -/
theorem eq_encode_of_decode {w : Word} {i : Instr} (h : decode w = .ok i) : w = encode i := by
  have hz : zeroField w = 0 → w.toNat = (opField w).toNat := by
    intro h0
    have h1 : w.toNat >>> 4 % 2 ^ 28 = 0 := by
      have := congrArg BitVec.toNat h0
      simpa [zeroField, BitVec.extractLsb'_toNat] using this
    have := w.isLt
    rw [Nat.shiftRight_eq_div_pow] at h1
    simp only [opField, BitVec.extractLsb'_toNat, Nat.shiftRight_zero]
    omega
  unfold decode at h
  split_ifs at h with h₀ h₁ h₂ h₃ h₄ h₅ <;> cases h <;> simp only [not_not] at h₀ <;>
    · apply BitVec.eq_of_toNat_eq
      rw [hz h₀]
      simp_all [encode]

/-- Everything a step can do: the completion step of a command or of an illegal word, nothing while idle, a host
access, or a reset. -/
theorem step_cases (s : State) :
    (∃ u, (u = s ∨ u = s.withAgenda s.agenda.tail) ∧ s.EngineNext ∧
      ((u.busy = true ∧ ((∃ i, u.cmd = encode i ∧ step s = exec i u) ∨
          ((∀ i, u.cmd ≠ encode i) ∧ step s = .next (u.raise .illegalCommand)))) ∨
        (u.busy = false ∧ step s = .next u))) ∨
      ∃ e rest, s.agenda = e :: rest ∧
        ((∃ width off, e = .read width off ∧ step s = .next ((s.withAgenda rest).hostRead width off)) ∨
          (∃ width off v, e = .write width off v ∧ step s = .next ((s.withAgenda rest).hostWrite width off v)) ∨
          (e = .reset ∧ step s = .next (s.withAgenda rest).resetBlock)) := by
  have turn (u : State) : (u.busy = true ∧ ((∃ i, u.cmd = encode i ∧ engineTurn u = exec i u) ∨
      ((∀ i, u.cmd ≠ encode i) ∧ engineTurn u = .next (u.raise .illegalCommand)))) ∨
      (u.busy = false ∧ engineTurn u = .next u) := by
    cases hb : u.busy
    · exact .inr ⟨rfl, by simp [engineTurn, hb]⟩
    · refine .inl ⟨rfl, ?_⟩
      cases hd : decode u.cmd with
      | ok i => exact .inl ⟨i, eq_encode_of_decode hd, by simp [engineTurn, completionStep, hb, hd]⟩
      | error e =>
        refine .inr ⟨fun i hi => ?_, by simp [engineTurn, completionStep, hb, hd, execIllegal]⟩
        rw [hi] at hd
        cases i <;> cases hd
  cases ha : s.agenda with
  | nil =>
    refine .inl ⟨s, .inl rfl, .inl ha, ?_⟩
    have : step s = engineTurn s := by simp [step, advance, ha]
    rw [this]
    exact turn s
  | cons e rest =>
    have hstep : step s = takeEvent e (s.withAgenda rest) := by simp [step, advance, ha]
    cases e with
    | engine =>
      refine .inl ⟨s.withAgenda rest, .inr (by rw [List.tail_cons]), .inr (by simp [ha]), ?_⟩
      rw [hstep]
      exact turn _
    | read width off => exact .inr ⟨_, _, rfl, .inl ⟨width, off, rfl, hstep⟩⟩
    | write width off v => exact .inr ⟨_, _, rfl, .inr (.inl ⟨width, off, v, rfl, hstep⟩)⟩
    | reset => exact .inr ⟨_, _, rfl, .inr (.inr ⟨rfl, hstep⟩)⟩

end Sys2Proof.Machine
end

