-- ==== Sys2Proof/Tests/Slice0.lean ====
section
/-! SUPPORT. The model's own tests. Expected results come from spec/95_test_vectors.md (the vector's number stands above
each test) or from the worked examples of the rules named. At the end, one witness per statement of Obligations.lean that
has hypotheses. -/

namespace Sys2Proof.Tests

open Sys2Proof Sys2Proof.Machine

/-! ### Helpers -/

/-- K20, the twenty ASCII bytes "12345678901234567890" (95_test_vectors.md, common data). -/
def k20 : List Byte :=
  [0x31, 0x32, 0x33, 0x34, 0x35, 0x36, 0x37, 0x38, 0x39, 0x30] ++
  [0x31, 0x32, 0x33, 0x34, 0x35, 0x36, 0x37, 0x38, 0x39, 0x30]

/-- An idle block of KEY_MAX = 20 with K20 loaded and every other register at its reset value. -/
def loaded : State := { State.reset with key := k20, keyLen := 20 }

/-- The same with command word v issued and nothing to come. -/
def issued (v : Word) : State := loaded.issue v

/-- A TOKEN buffer that starts with a string. -/
def tokenOf (bytes : List Byte) : Vector Byte 16 := Vector.ofFn fun j => byteAt bytes j.val

/-- A state with a token of at most 16 bytes loaded. -/
def withToken (s : State) (bytes : List Byte) : State :=
  { s with token := tokenOf bytes, tokenLen := BitVec.ofNat 8 bytes.length }

/-- The state an outcome goes on with. -/
def nextOf (o : Host.Outcome State Fault Refusal) : Option State :=
  match o with
  | .next s => some s
  | .fault _ => none
  | .refused _ => none

/-- STATUS, CODE_LEN and the three CODE words after an outcome. -/
def codeView (o : Host.Outcome State Fault Refusal) : Option (List Word) :=
  (nextOf o).map fun t => [t.memRead 0x004, t.memRead 0x040, t.memRead 0x044, t.memRead 0x048, t.memRead 0x04C]

/-- STATUS and DELTA after an outcome. -/
def verdictView (o : Host.Outcome State Fault Refusal) : Option (List Word) :=
  (nextOf o).map fun t => [t.memRead 0x004, t.memRead 0x050, t.memRead 0x054]

/-- STATUS after an outcome. -/
def statusView (o : Host.Outcome State Fault Refusal) : Option Word := (nextOf o).map fun t => t.memRead 0x004

/-! ### WellFormed smoke: an ill-formed term for each check -/

theorem test_wf_zeroField_refused : CommandWord.zeroFieldClear 0x00000011 = false ∧ CommandWord.wf 0x00000011 = false := by
  decide

theorem test_wf_op_refused :
    CommandWord.opAssigned 0x00000000 = false ∧ CommandWord.opAssigned 0x00000006 = false ∧
      CommandWord.wf 0x00000000 = false ∧ CommandWord.wf 0x00000006 = false := by decide

theorem test_wf_hostOp_register_refused :
    HostOp.wf 20 (.wr (.keyW 5) 0) = false ∧ HostOp.wf 20 (.rd (.tokenW 4)) = false ∧
      HostOp.wf 20 (.rd (.codeW 3)) = false := by decide

theorem test_wf_hostOp_length_refused :
    HostOp.wf 4 (.setKey [1, 2, 3, 4, 5]) = false ∧ HostOp.wf 20 (.setToken (List.replicate 17 0)) = false := by decide

theorem test_wf_hostOp_number_refused :
    HostOp.wf 20 (.setCounter (2 ^ 63)) = false ∧ HostOp.wf 20 (.setNow (-2 ^ 63 - 1)) = false ∧
      HostOp.wf 20 (.setWindow (2 ^ 31)) = false ∧ HostOp.wf 20 (.setStep (2 ^ 32)) = false ∧
      HostOp.wf 20 (.setCfg .sha1 16) = false := by decide

/-! ### Decoding: words written out from rules R80 and R81 -/

/-- ZERO = 0 in bits 31:4, OP = 1 to 5 in bits 3:0. -/
theorem test_decode_rows :
    decode (0x0000000#28 ++ 0b0001#4) = .ok .gen ∧ decode (0x0000000#28 ++ 0b0010#4) = .ok .verify ∧
      decode (0x0000000#28 ++ 0b0011#4) = .ok .tgen ∧ decode (0x0000000#28 ++ 0b0100#4) = .ok .tverify ∧
      decode (0x0000000#28 ++ 0b0101#4) = .ok .zeroize := by
  refine ⟨?_, ?_, ?_, ?_, ?_⟩ <;> rfl

/-- Rule R82 and vectors V84 to V87: OP 0, 6, 7, 15, and bits above OP set. -/
theorem test_decode_illegal :
    decode 0x00000000 = .error .unassignedOp ∧ decode 0x00000006 = .error .unassignedOp ∧
      decode 0x00000007 = .error .unassignedOp ∧ decode 0x0000000F = .error .unassignedOp ∧
      decode 0x00000011 = .error .zeroFieldSet ∧ decode 0x80000001 = .error .zeroFieldSet ∧
      decode 0xFFFFFFFF = .error .zeroFieldSet := by
  refine ⟨?_, ?_, ?_, ?_, ?_, ?_, ?_⟩ <;> rfl

/-! ### The engine's functions -/

/-- V28: 37037036, -2 and -2^63. -/
theorem test_counterBytes :
    counterBytes 37037036 = [0, 0, 0, 0, 0x02, 0x35, 0x23, 0xEC] ∧
      counterBytes (-2) = [0xFF, 0xFF, 0xFF, 0xFF, 0xFF, 0xFF, 0xFF, 0xFE] ∧
      counterBytes (-2 ^ 63) = [0x80, 0, 0, 0, 0, 0, 0, 0] := by decide

/-- V18, offset 15: bytes c1 01 8b 1c of the digest 510b...1ccf, the top bit masked. -/
theorem test_truncation_last_offset :
    digestValue (beBytes 20 0x510b2efa217fb4fb098fea67d74697c1018b1ccf) = 1090620188 := by decide +kernel

/-- V27 and rule R106: zero padding, and ten digits. -/
theorem test_decimal :
    decimal 5924 6 = [0x30, 0x30, 0x35, 0x39, 0x32, 0x34] ∧
      decimal 82162583 10 = [0x30, 0x30, 0x38, 0x32, 0x31, 0x36, 0x32, 0x35, 0x38, 0x33] := by decide

/-- V29 with code "755224": a length mismatch, a NUL, and bytes beyond the length that do not matter. -/
theorem test_tokenEqual :
    let code : List Byte := [0x37, 0x35, 0x35, 0x32, 0x32, 0x34]
    tokenEqual 6 (tokenOf (code ++ [9, 9])) code = true ∧ tokenEqual 5 (tokenOf code) code = false ∧
      tokenEqual 6 (tokenOf [0x37, 0x35, 0x35, 0x32, 0x32]) code = false ∧ tokenEqual 200 (tokenOf code) code = false := by
  decide

/-- Rule R170's examples: rounding is toward minus infinity. -/
theorem test_totpCounter :
    totpCounter 59999 30 = 1 ∧ totpCounter 60000 30 = 2 ∧ totpCounter 1111111109000 30 = 37037036 ∧
      totpCounter (-1) 30 = -1 ∧ totpCounter (-30000) 30 = -1 ∧ totpCounter (-30001) 30 = -2 := by decide

/-- V115: a key of 65 bytes is longer than SHA-1's block and is hashed first. -/
theorem test_hmac_long_key :
    intBe (hmac .sha1 ((List.range 65).map (BitVec.ofNat 8)) (List.replicate 8 0)) =
      0xad4e7afa7e1eb6625ca48b39cd64a3fc312d087a := by decide +kernel

/-- V116: a key of exactly one SHA-256 block. -/
theorem test_hmac_block_key :
    intBe (hmac .sha256 ((List.range 64).map (BitVec.ofNat 8)) (List.replicate 8 0)) =
      0x9473869b87a29bcc2b3d6c5ce041f7fd6722f029ecf8dd8fb5cad8a5d9524dcd := by decide +kernel

/-! ### GEN -/

/-- V50: STATUS 2, "755224". -/
theorem test_gen_755224 :
    codeView (exec .gen (issued 1)) = some [0x00000002, 6, 0x37353532, 0x32340000, 0] := by decide +kernel

/-- V55: SHA-512, "125165"; WINDOW = -1 and TIMESTEP = 0 do not disturb GEN (V58). -/
theorem test_gen_sha512 :
    codeView (exec .gen { issued 1 with cfgHash := 2, window := 0xFFFFFFFF, timestep := 0 }) =
      some [0x00000002, 6, 0x31323531, 0x36350000, 0] := by decide +kernel

/-! ### VERIFY -/

/-- V31: one digit, WINDOW 2, token "4": the least of several matches, delta -2. -/
theorem test_verify_least_match :
    verdictView (exec .verify (withToken { issued 2 with cfgDigits := 1, window := 2 } [0x34])) =
      some [0x00000006, 0xFFFFFFFF, 0xFFFFFFFE] := by decide +kernel

/-- V47: COUNTER = -2^63, WINDOW 1, token "181742" of counter 2^63-1: no wrap-around. -/
theorem test_verify_no_wrap :
    verdictView (exec .verify (withToken { issued 2 with counter := 0x8000000000000000, window := 1 }
      [0x31, 0x38, 0x31, 0x37, 0x34, 0x32])) = some [0x00000002, 0, 0] := by decide +kernel

/-! ### TGEN -/

/-- V65: NOW_MS = -1 derives counter -1, "094451". -/
theorem test_tgen_negative_time :
    codeView (exec .tgen { issued 3 with nowMs := 0xFFFFFFFFFFFFFFFF }) =
      some [0x00000002, 6, 0x30393434, 0x35310000, 0] := by decide +kernel

/-- V62: 1234567890 seconds, "005924"; COUNTER is not written. -/
theorem test_tgen_005924 :
    (nextOf (exec .tgen { issued 3 with nowMs := 0x0000011F71FB0450 })).map
        (fun t => (t.memRead 0x044, t.memRead 0x048, t.counter)) = some (0x30303539, 0x32340000, 0) := by decide +kernel

/-! ### TVERIFY -/

/-- V74: 1111111109 seconds, token "081804": matched, DELTA 0. -/
theorem test_tverify_match :
    verdictView (exec .tverify (withToken { issued 4 with nowMs := 0x00000102B3620988 }
      [0x30, 0x38, 0x31, 0x38, 0x30, 0x34])) = some [0x00000006, 0, 0] := by decide +kernel

/-- V75: the same token one step later: no match, and no error. -/
theorem test_tverify_next_step :
    verdictView (exec .tverify (withToken { issued 4 with nowMs := 0x00000102B3620988 + 30000 }
      [0x30, 0x38, 0x31, 0x38, 0x30, 0x34])) = some [0x00000002, 0, 0] := by decide +kernel

/-! ### ZEROIZE and illegal words -/

/-- V80: secret and token erased, STATUS 2, the configuration kept. -/
theorem test_zeroize :
    (nextOf (exec .zeroize (withToken { issued 5 with cfgDigits := 8, window := 9 } [0x35, 0x32]))).map
        (fun t => ((t.key, t.keyLen, t.token, t.tokenLen), (t.memRead 0x004, t.cfgDigits, t.window, t.cmd))) =
      some ((List.replicate 20 0, 0, Vector.replicate 16 0, 0), (0x00000002, 8, 9, 5)) := by decide +kernel

/-- V83: ZEROIZE validates nothing, with no key and an illegal configuration. -/
theorem test_zeroize_cannot_fail :
    statusView (exec .zeroize { issued 5 with keyLen := 0, cfgHash := 3, cfgDigits := 15 }) = some 0x00000002 := by
  decide +kernel

/-- V84 and V86: words 0 and 0x11 report IllegalCommand; so does 7 with no key (V104). -/
theorem test_illegal_words :
    statusView (step (issued 0x00000000)) = some 0x00000062 ∧ statusView (step (issued 0x00000011)) = some 0x00000062 ∧
      statusView (step { issued 7 with keyLen := 0, cfgHash := 3 }) = some 0x00000062 := by decide +kernel

/-! ### Errors and their order -/

/-- V91 to V94: InvalidSecret, UnsupportedHash, InvalidDigits, InvalidWindow, each the first that applies. -/
theorem test_errors_verify :
    let s (keyLen : BitVec 16) (hash : BitVec 2) (digits : BitVec 4) : State :=
      { issued 2 with keyLen := keyLen, cfgHash := hash, cfgDigits := digits, window := 0xFFFFFFFF }
    statusView (exec .verify (s 0 3 15)) = some 0x00000012 ∧ statusView (exec .verify (s 1 3 15)) = some 0x00000022 ∧
      statusView (exec .verify (s 1 0 15)) = some 0x00000032 ∧ statusView (exec .verify (s 1 0 6)) = some 0x00000042 := by
  decide +kernel

/-- V97, V98, V100, V102 and V103: digits 0 and 11, TIMESTEP 0, and KEY_LEN = KEY_MAX + 1. -/
theorem test_errors_others :
    statusView (exec .gen { issued 1 with cfgDigits := 0 }) = some 0x00000032 ∧
      statusView (exec .gen { issued 1 with cfgDigits := 11 }) = some 0x00000032 ∧
      statusView (exec .tgen { issued 3 with timestep := 0 }) = some 0x00000052 ∧
      statusView (exec .tverify { issued 4 with timestep := 0, cfgDigits := 15 }) = some 0x00000032 ∧
      statusView (exec .gen { issued 1 with keyLen := 21 }) = some 0x00000012 := by decide +kernel

/-! ### The register space -/

/-- V131, V132: reserved bits are dropped. -/
theorem test_bus_reserved_bits :
    (loaded.memWrite 0x008 0xFFFFFFFF).memRead 0x008 = 0x00000F03 ∧
      (loaded.memWrite 0x028 0xFFFFFFFF).memRead 0x028 = 0x0000FFFF ∧
      (loaded.memWrite 0x02C 0xFFFFFFFF).memRead 0x02C = 0x000000FF := by decide +kernel

/-- V133 and V134: KEY is write-only and big-endian within the word; TOKEN reads back. -/
theorem test_bus_buffers :
    ({ loaded with key := rep 0 20 }.memWrite 0x100 0x31323334).key.take 5 = [0x31, 0x32, 0x33, 0x34, 0] ∧
      (loaded.memWrite 0x100 0x31323334).memRead 0x100 = 0 ∧
      (loaded.memWrite 0x034 0x35323034).memRead 0x034 = 0x35323034 ∧
      (loaded.memWrite 0x034 0x35323034).token[4] = 0x35 := by decide +kernel

/-- V135: read-only registers and reserved offsets ignore writes. -/
theorem test_bus_ignored :
    loaded.memWrite 0x004 0xFFFFFFFF = loaded ∧ loaded.memWrite 0x040 5 = loaded ∧ loaded.memWrite 0x054 1 = loaded ∧
      loaded.memWrite 0x01C 1 = loaded ∧ loaded.memWrite 0x058 1 = loaded ∧ loaded.memRead 0x01C = 0 := by decide +kernel

/-- V137: while BUSY a second command and an operand write are lost. -/
theorem test_bus_busy_writes_lost :
    (issued 1).memWrite 0x000 5 = issued 1 ∧ (issued 1).memWrite 0x014 9 = issued 1 ∧
      (issued 1).memRead 0x004 = 0x00000001 := by decide +kernel

/-- Rule R67: a halfword, an unaligned word and an offset outside the space are refused. -/
theorem test_bus_refused :
    (loaded.hostWrite 2 0x010 7) = loaded.answer .refused ∧ (loaded.hostWrite 4 0x012 7) = loaded.answer .refused ∧
      (loaded.hostRead 4 0x1000) = loaded.answer .refused := by decide +kernel

/-- V140: reset while BUSY. -/
theorem test_reset_while_busy :
    (nextOf (step { issued 2 with agenda := [.reset] })).map (fun t => (t.memRead 0x004, t.keyLen, t.cmd, t.key.take 1)) =
      some (0, 0, 0, [0]) := by decide +kernel

/-- The words of GEN and ZEROIZE as the first command after reset: no key, so InvalidSecret (V90); ZEROIZE succeeds (V83). -/
theorem test_fetchWord_runs :
    statusView (step (State.reset.withFetchWord 32 1)) = some 0x00000012 ∧
      statusView (step (State.reset.withFetchWord 32 5)) = some 0x00000002 := by decide +kernel

/-- Program P2's encoding of SETTOKEN "520489" and SETWINDOW 8, and P1's last two key writes. -/
theorem test_notation_expansion :
    HostOp.expand (.setToken [0x35, 0x32, 0x30, 0x34, 0x38, 0x39]) =
        [.write 4 0x030 0x35323034, .write 4 0x034 0x38390000, .write 4 0x02C 6] ∧
      HostOp.expand (.setWindow 8) = [.write 4 0x00C 8] ∧
      (HostOp.expand (.setKey k20)).drop 4 = [.write 4 0x110 0x37383930, .write 4 0x028 0x14] ∧
      HostOp.expand (.setCfg .sha512 8) = [.write 4 0x008 0x00000802] := by decide

/-! ### Witnesses: for each statement with hypotheses, inputs that meet them all (at the ends of their ranges where there
are ranges) -/

theorem witness_DecodeEncodeAgree : Instr.wf .gen = true ∧ decode 0x00000005 = .ok .zeroize := ⟨rfl, rfl⟩

/-- One word for each clause, at its ends. -/
theorem witness_IllegalWordsRejectedByName :
    ((0x00000010 : Word).toNat / 16 ≠ 0 ∧ (0xFFFFFFFF : Word).toNat / 16 ≠ 0) ∧
      ((0x00000000 : Word).toNat / 16 = 0 ∧ (0x00000000 : Word).toNat = 0) ∧
      ((0x00000006 : Word).toNat / 16 = 0 ∧ 6 ≤ (0x00000006 : Word).toNat) ∧
      ((0x0000000F : Word).toNat / 16 = 0 ∧ 6 ≤ (0x0000000F : Word).toNat) := by decide

/-- A command, an illegal word and an idle block, with an empty agenda and with the engine's turn first. -/
theorem witness_StepRunsTheLatchedCommand :
    ((issued 1).EngineNext ∧ (issued 1).busy = true ∧ decode (issued 1).cmd = .ok .gen) ∧
      (State.EngineNext { issued 6 with agenda := [.engine, .reset] } ∧ (issued 6).busy = true ∧
        decode (issued 6).cmd = .error .unassignedOp) ∧
      (loaded.EngineNext ∧ loaded.busy = false) := by
  refine ⟨⟨by decide, rfl, rfl⟩, ⟨by decide, rfl, rfl⟩, by decide, rfl⟩

theorem witness_FetchedWordRunsNext :
    decodeTableWord 32 1 = some .gen ∧ decodeTableWord 3 5 = some .zeroize ∧ decodeTableWord 64 2 = some .verify := by
  decide

/-- Host accesses before the engine's turn, and no event at all. -/
theorem witness_IssuedCommandCompletesOnItsOperands :
    ((issued 1).busy = true ∧ Event.reset ∉ ([.read 4 0x004, .write 4 0x000 5, .engine] : List Event)) ∧
      Event.reset ∉ (issued 1).agenda := by decide

/-- The ends of the space, and of each range of the table. -/
theorem witness_HostReadTable :
    ∀ off ∈ [0x000, 0x054, 0x01C, 0x058, 0xFFC] ++ [0x030, 0x03C, 0x044, 0x04C], off % 4 = 0 ∧ off ≤ 0xFFC := by decide

/-- An idle block, and the ends of the range of result registers. -/
theorem witness_HostWriteTable :
    loaded.busy = false ∧ (0x040 % 4 = 0 ∧ 0x040 ≤ 0x054) ∧ (0x054 % 4 = 0 ∧ 0x040 ≤ 0x054) := by decide

/-- The first and the last word of each buffer, KEY at KEY_MAX = 20. -/
theorem witness_HostWriteStoresBufferBytes :
    loaded.busy = false ∧ (0 < 4 ∧ 3 < 4) ∧ (4 * 0 < loaded.key.length ∧ 4 * 0 ≤ 0xEFC) ∧
      (4 * 4 < loaded.key.length ∧ 4 * 4 ≤ 0xEFC) := by decide

theorem witness_WritesWhileBusyAreLost : (issued 1).busy = true ∧ 0xFFC % 4 = 0 ∧ 0xFFC ≤ 0xFFC := by decide

theorem witness_CommandIssue : loaded.busy = false := rfl

/-- One access for each way to be refused. -/
theorem witness_OtherAccessesAreRefused :
    (2 ≠ 4) ∧ ((0x012 : Nat) % 4 ≠ 0) ∧ (0x1000 ≤ (0x1000 : Nat)) := by decide

/-- The ends of each reserved range, with KEY_MAX = 20. -/
theorem witness_ReservedOffsetsHoldNothing :
    ∀ off ∈ [0x01C, 0x058, 0x0FC, 0x114, 0xFFC], off % 4 = 0 ∧ off ≤ 0xFFC ∧
      (off = 0x01C ∨ (0x058 ≤ off ∧ off ≤ 0x0FC) ∨ 0x100 + loaded.key.length ≤ off) := by decide

theorem witness_WrittenRegistersReadBack : loaded.busy = false ∧ (3 : Nat) < 4 := by decide

/-- The first KEY word, the last offset of the space. -/
theorem witness_KeyIsNeverRead : 0x100 % 4 = 0 ∧ 0x100 ≤ 0x100 ∧ 0xFFC % 4 = 0 ∧ 0xFFC ≤ 0xFFC := by decide

theorem witness_ResetValues : Instr.gen ≠ .zeroize ∧ Instr.tverify ≠ .zeroize ∧ (0 : Byte) ∈ [(0 : Byte)] := by decide

/-- After the reset the engine's turn is next. -/
theorem witness_ResetDiscardsEverything : State.EngineNext { issued 1 with agenda := [] } := by decide

theorem witness_CounterBytesBigEndian :
    ((-2 ^ 63 : Int) ≤ -2 ^ 63 ∧ (-2 ^ 63 : Int) ≤ 2 ^ 63 - 1) ∧ ((-2 ^ 63 : Int) ≤ 2 ^ 63 - 1 ∧ (7 : Nat) < 8) ∧
      counterBytes (2 ^ 63 - 1) = counterBytes (2 ^ 63 - 1) := by decide

/-- A digest of each length; two that differ only beyond byte 18 and before the last. -/
theorem witness_TruncationBounds :
    (rep 1 20).length = 20 ∧ (rep 1 32).length = 32 ∧ (rep 1 64).length = 64 ∧
      (rep 1 19 ++ [2] ++ rep 1 12).length = (rep 1 32).length ∧
      (rep 1 19 ++ [2] ++ rep 1 12).take 19 = (rep 1 32).take 19 ∧
      (rep 1 19 ++ [2] ++ rep 1 12).getLast? = (rep 1 32).getLast? := by decide

theorem witness_ValueIsFourBytesAtOffset : (rep 0xFF 20).length = 20 ∧ (rep 0xFF 64).length = 64 := by decide

theorem witness_CodeNumberBounds :
    ((2 ^ 31 - 1 : Nat) < 2 ^ 31 ∧ 1 ≤ 1 ∧ 1 ≤ 10) ∧ ((0 : Nat) < 2 ^ 31 ∧ 1 ≤ 10 ∧ 10 ≤ 10) := by decide

theorem witness_DecimalReadsBack : (9 < 10 ^ 1 ∧ 0 < 1) ∧ ((2 ^ 31 - 1 : Nat) < 10 ^ 10 ∧ (9 : Nat) < 10) := by decide

/-- A code of one byte and one of ten; two TOKEN buffers that differ only beyond the token. -/
theorem witness_TokenEqualityByContent :
    ((255 : Nat) < 256 ∧ 1 ≤ ([0x34] : List Byte).length) ∧ (1 ≤ (decimal 7 10).length ∧ (decimal 7 10).length ≤ 10) ∧
      (tokenOf [0x34, 1]).toList.take 1 = (tokenOf [0x34, 2]).toList.take 1 := by decide

theorem witness_PaddingFillsBlocks :
    (55 + 1 + 0 + Hash.sha1.lengthBytes) % Hash.sha1.blockBytes = 0 ∧
      (56 + 1 + 63 + Hash.sha1.lengthBytes) % Hash.sha1.blockBytes = 0 := by decide

/-- Keys below, at and above a block. -/
theorem witness_HmacKeyRules :
    k20.length + 44 ≤ Hash.sha1.blockBytes ∧ (rep 1 64).length = Hash.sha1.blockBytes ∧
      Hash.sha1.blockBytes < (rep 1 65).length := by decide

/-- An 8-byte message; a key below a block, of exactly a block, and of one byte more. -/
theorem witness_HmacBlockCount :
    (rep 0 8).length = 8 ∧ k20.length ≤ Hash.sha1.blockBytes ∧ (rep 1 64).length ≤ Hash.sha1.blockBytes ∧
      Hash.sha1.blockBytes < (rep 1 65).length := by decide

/-- KEY_LEN 1 with 1 digit, KEY_LEN = KEY_MAX with 10 digits. -/
theorem witness_GenWritesTheCode :
    State.Operable { loaded with keyLen := 1, cfgDigits := 1 } .sha1 ∧
      State.Operable { loaded with cfgHash := 2, cfgDigits := 10 } .sha512 := by decide

/-- WINDOW 0 and the greatest WINDOW. -/
theorem witness_VerifyFindsTheLeastMatch :
    State.Operable { loaded with window := 0 } .sha1 ∧ 0 ≤ (0 : Word).toInt ∧
      State.Operable { loaded with window := 0x7FFFFFFF } .sha1 ∧ 0 ≤ (0x7FFFFFFF : Word).toInt := by decide

theorem witness_CandidateRange : 0 ≤ (0 : Word).toInt ∧ 0 ≤ (0x7FFFFFFF : Word).toInt := by decide

theorem witness_TokenLengthMismatchIsNoMatch :
    loaded.Operable .sha1 ∧ 0 ≤ loaded.window.toInt ∧ loaded.tokenLen.toNat ≠ loaded.cfgDigits.toNat := by decide

/-- GEN of counter 0 on K20 (V50), then VERIFY of "755224" with WINDOW 0 (V35). -/
theorem witness_RoundTripMatchesWithDeltaZero :
    ∃ s t u : State, s.Operable .sha1 ∧ exec .gen s = .next t ∧
      u.key.take u.keyLen.toNat = s.key.take s.keyLen.toNat ∧ u.Operable .sha1 ∧ u.cfgDigits = s.cfgDigits ∧
      u.counter = s.counter ∧ u.window = 0 ∧ u.tokenLen.toNat = t.codeLen.toNat ∧
      u.token.toList.take u.tokenLen.toNat = t.code.toList.take t.codeLen.toNat := by
  refine ⟨loaded, (loaded.writeCode 6 (otp k20 0 .sha1 6)).complete,
    withToken { loaded with window := 0 } [0x37, 0x35, 0x35, 0x32, 0x32, 0x34], by decide, ?_, by decide, by decide, rfl,
    rfl, rfl, by decide, by decide +kernel⟩
  have h : validate .gen loaded = .ok { key := k20, hash := .sha1, digits := 6 } := by
    rw [validate_eq_ok_iff]
    decide
  exact withInputs_of_ok (fun x => loaded.writeCode x.digits (otp x.key loaded.counterInt x.hash x.digits)) h

/-- Drift 1 at WINDOW 1 (token "287082"), and drift 2 at WINDOW 1 (token "359152"), around counter 0 on K20. -/
theorem witness_DriftDetectionWithoutCollision :
    ∃ s u : State, s.Operable .sha1 ∧ u.Operable .sha1 ∧ s.window = 1 ∧ u.window = 1 ∧ s.counter = 0 ∧ u.counter = 0 ∧
      s.tokenLen.toNat = s.cfgDigits.toNat ∧ u.tokenLen.toNat = u.cfgDigits.toNat ∧
      s.token.toList.take s.tokenLen.toNat = otp (s.key.take s.keyLen.toNat) 1 .sha1 s.cfgDigits.toNat ∧
      u.token.toList.take u.tokenLen.toNat = otp (u.key.take u.keyLen.toNat) 2 .sha1 u.cfgDigits.toNat ∧
      (∀ i : Int, -1 ≤ i → i < 1 → otp k20 i .sha1 6 ≠ otp k20 1 .sha1 6) ∧
      (∀ i : Int, -1 ≤ i → i ≤ 1 → otp k20 i .sha1 6 ≠ otp k20 2 .sha1 6) := by
  have code_neg : otp k20 (-1) .sha1 6 = [0x30, 0x39, 0x34, 0x34, 0x35, 0x31] := by decide +kernel
  have code_0 : otp k20 0 .sha1 6 = [0x37, 0x35, 0x35, 0x32, 0x32, 0x34] := by decide +kernel
  have code_1 : otp k20 1 .sha1 6 = [0x32, 0x38, 0x37, 0x30, 0x38, 0x32] := by decide +kernel
  have code_2 : otp k20 2 .sha1 6 = [0x33, 0x35, 0x39, 0x31, 0x35, 0x32] := by decide +kernel
  refine ⟨withToken { loaded with window := 1 } [0x32, 0x38, 0x37, 0x30, 0x38, 0x32],
    withToken { loaded with window := 1 } [0x33, 0x35, 0x39, 0x31, 0x35, 0x32], by decide, by decide, rfl, rfl, rfl, rfl,
    rfl, rfl, ?_, ?_, ?_, ?_⟩
  · exact Eq.trans (by decide) code_1.symm
  · exact Eq.trans (by decide) code_2.symm
  · intro i h₁ h₂
    obtain rfl | rfl : i = -1 ∨ i = 0 := by omega
    · rw [code_neg, code_1]
      decide
    · rw [code_0, code_1]
      decide
  · intro i h₁ h₂
    obtain rfl | rfl | rfl : i = -1 ∨ i = 0 ∨ i = 1 := by omega
    · rw [code_neg, code_2]
      decide
    · rw [code_0, code_2]
      decide
    · rw [code_1, code_2]
      decide

theorem witness_TotpCounterIsTheFloor : (1 : Word) ≠ 0 ∧ (0xFFFFFFFF : Word) ≠ 0 := by decide

/-- The hypotheses of TgenWritesTheCode and of TverifyComparesOneCode. -/
theorem witness_TgenWritesTheCode : loaded.Operable .sha1 ∧ loaded.timestep ≠ 0 := by decide

theorem witness_TverifyComparesOneCode :
    State.Operable { loaded with timestep := 0xFFFFFFFF, cfgHash := 1 } .sha256 ∧ (0xFFFFFFFF : Word) ≠ 0 := by decide

/-- A state in which TGEN succeeds, and one in which it reports an error. -/
theorem witness_TgenEqualsGenAtDerivedCounter :
    ∃ t u : State, loaded.timestep ≠ 0 ∧ exec .tgen loaded = .next t ∧
      exec .tgen { loaded with cfgDigits := 0 } = .next u := by
  obtain ⟨t, ht, -⟩ := exec_finishes .tgen loaded
  obtain ⟨u, hu, -⟩ := exec_finishes .tgen { loaded with cfgDigits := 0 }
  exact ⟨t, u, by decide, ht, hu⟩

theorem witness_TverifyEqualsVerifyWithoutWindow :
    ∃ t : State, loaded.timestep ≠ 0 ∧ loaded.delta = 0 ∧ exec .tverify loaded = .next t := by
  obtain ⟨t, ht, -⟩ := exec_finishes .tverify loaded
  exact ⟨t, by decide, rfl, ht⟩

/-- The host changes CFG and COUNTER after ZEROIZE. -/
theorem witness_CommandsFailAfterZeroize :
    ∃ t u : State, exec .zeroize loaded = .next t ∧ Instr.verify ≠ .zeroize ∧ u.keyLen = t.keyLen ∧ u ≠ t := by
  refine ⟨loaded.eraseSecrets.complete, { loaded.eraseSecrets.complete with counter := 7 }, rfl, by decide, rfl, ?_⟩
  intro h
  exact absurd (congrArg State.counter h) (by decide)

/-- The three causes that every validating command checks (rule R190). -/
abbrev secretBad (s : State) : Prop := s.keyLen.toNat = 0 ∨ s.key.length < s.keyLen.toNat

abbrev hashBad (s : State) : Prop := s.cfgHash.toNat = 3

abbrev digitsBad (s : State) : Prop := s.cfgDigits.toNat = 0 ∨ 11 ≤ s.cfgDigits.toNat

/-- One state for each clause, at the ends of its range: the first error in turn, then none. -/
theorem witness_ErrorsInPriorityOrder :
    (secretBad { loaded with keyLen := 0 } ∧ secretBad { loaded with keyLen := 21 }) ∧
      (¬secretBad loaded ∧ hashBad { loaded with cfgHash := 3 }) ∧
      (¬hashBad loaded ∧ digitsBad { loaded with cfgDigits := 0 } ∧ digitsBad { loaded with cfgDigits := 11 }) ∧
      (¬digitsBad { loaded with cfgDigits := 1 } ∧ ¬digitsBad { loaded with cfgDigits := 10 }) ∧
      (¬digitsBad loaded ∧ 2 ^ 31 ≤ { loaded with window := 0x80000000 }.window.toNat ∧
        { loaded with window := 0x7FFFFFFF }.window.toNat < 2 ^ 31) ∧
      ({ loaded with timestep := 0 }.timestep = 0 ∧ loaded.timestep ≠ 0) := by decide

/-- Words 0, 6 and the greatest. -/
theorem witness_IllegalCommandReported :
    ((issued 0).EngineNext ∧ (issued 0).busy = true ∧ (issued 0).cmd.toNat = 0) ∧
      ((issued 6).EngineNext ∧ (issued 6).busy = true ∧ 6 ≤ (issued 6).cmd.toNat) ∧
      6 ≤ (issued 0xFFFFFFFF).cmd.toNat := by decide

/-- Two states that differ in a KEY byte beyond KEY_LEN, in TOKEN, in WINDOW and in CMD. -/
theorem witness_GeneratingReadsOnlyItsOperands :
    ∃ s s' t t' u u' : State, s'.key.length = s.key.length ∧ s'.keyLen = s.keyLen ∧
      s'.key.take s.keyLen.toNat = s.key.take s.keyLen.toNat ∧ s'.cfgHash = s.cfgHash ∧ s'.cfgDigits = s.cfgDigits ∧
      s.err = 0 ∧ s'.err = 0 ∧ s.ResultsCleared ∧ s'.ResultsCleared ∧ s'.counter = s.counter ∧
      s'.timestep = s.timestep ∧ s'.nowMs = s.nowMs ∧ exec .gen s = .next t ∧ exec .gen s' = .next t' ∧
      exec .tgen s = .next u ∧ exec .tgen s' = .next u' ∧ s' ≠ s := by
  let s : State := { loaded with keyLen := 19 }
  let s' : State := { withToken s [1] with key := k20.set 19 0, window := 3, cmd := 9 }
  obtain ⟨t, ht, -⟩ := exec_finishes .gen s
  obtain ⟨t', ht', -⟩ := exec_finishes .gen s'
  obtain ⟨u, hu, -⟩ := exec_finishes .tgen s
  obtain ⟨u', hu', -⟩ := exec_finishes .tgen s'
  refine ⟨s, s', t, t', u, u', by decide, rfl, by decide, rfl, rfl, rfl, rfl, by decide, by decide, rfl, rfl, rfl, ht,
    ht', hu, hu', ?_⟩
  intro h
  exact absurd (congrArg State.cmd h) (by decide)

/-- Two states that differ in KEY and TOKEN bytes beyond their lengths and in CMD. -/
theorem witness_VerifyingReadsOnlyItsOperands :
    ∃ s s' t t' u u' : State, s'.key.length = s.key.length ∧ s'.keyLen = s.keyLen ∧
      s'.key.take s.keyLen.toNat = s.key.take s.keyLen.toNat ∧ s'.cfgHash = s.cfgHash ∧ s'.cfgDigits = s.cfgDigits ∧
      s'.tokenLen = s.tokenLen ∧ s'.token.toList.take s.tokenLen.toNat = s.token.toList.take s.tokenLen.toNat ∧
      s.err = 0 ∧ s'.err = 0 ∧ s.matched = false ∧ s'.matched = false ∧ s.ResultsCleared ∧ s'.ResultsCleared ∧
      s'.counter = s.counter ∧ s'.window = s.window ∧ s'.timestep = s.timestep ∧ s'.nowMs = s.nowMs ∧
      exec .verify s = .next t ∧ exec .verify s' = .next t' ∧ exec .tverify s = .next u ∧ exec .tverify s' = .next u' ∧
      s' ≠ s := by
  let s : State := withToken { loaded with keyLen := 19, window := 0 } [0x34]
  let s' : State := { s with key := k20.set 19 0, token := tokenOf [0x34, 1], cmd := 9 }
  obtain ⟨t, ht, -⟩ := exec_finishes .verify s
  obtain ⟨t', ht', -⟩ := exec_finishes .verify s'
  obtain ⟨u, hu, -⟩ := exec_finishes .tverify s
  obtain ⟨u', hu', -⟩ := exec_finishes .tverify s'
  refine ⟨s, s', t, t', u, u', by decide, rfl, by decide, rfl, rfl, rfl, by decide, rfl, rfl, rfl, rfl, by decide,
    by decide, rfl, rfl, rfl, rfl, ht, ht', hu, hu', ?_⟩
  intro h
  exact absurd (congrArg State.cmd h) (by decide)

theorem witness_CommandsLeaveOperandsAlone :
    ∃ t u : State, exec .verify loaded = .next t ∧ Instr.verify ≠ .zeroize ∧ exec .zeroize loaded = .next u := by
  obtain ⟨t, ht, -⟩ := exec_finishes .verify loaded
  exact ⟨t, loaded.eraseSecrets.complete, ht, by decide, rfl⟩

/-- A command issue changes CMD. -/
theorem witness_CmdChangesOnlyByIssueOrReset :
    ∃ s t : State, step s = .next t ∧ t.cmd ≠ s.cmd :=
  ⟨{ loaded with agenda := [.write 4 0x000 5] }, _, rfl, by decide +kernel⟩

theorem witness_ResultsStayUntilNextIssue : ∃ t : State, loaded.busy = false ∧ step loaded = .next t :=
  ⟨loaded, rfl, rfl⟩

theorem witness_KeyMaxIsFixed : ∃ t : State, step { loaded with agenda := [.reset] } = .next t := ⟨_, rfl⟩

/-- Idle, BUSY with a command, and BUSY with a command whose completion is next: each meets the invariant and has a
step. -/
theorem witness_EveryStepKeepsInv :
    loaded.Inv ∧ (issued 2).Inv ∧ (∃ t, step loaded = .next t) ∧ ∃ t, step { issued 5 with agenda := [.engine] } = .next t := by
  refine ⟨⟨?_, ?_, ?_, ?_, ?_, ?_, ?_⟩, ⟨?_, ?_, ?_, ?_, ?_, ?_, ?_⟩, ⟨_, rfl⟩, ⟨_, rfl⟩⟩ <;> decide

/-- No byte, three bytes, and a whole buffer. -/
theorem witness_SetKeyLoadsTheSecret :
    loaded.busy = false ∧ Config.KeyMaxLegal loaded.key.length ∧ ([] : List Byte).length ≤ loaded.key.length ∧
      ([1, 2, 3] : List Byte).length ≤ loaded.key.length ∧ k20.length ≤ loaded.key.length := by decide

/-- The shortest and the longest secret, the least and the greatest counter, one and ten digits. -/
theorem witness_GenerateCallComputesTheCode :
    loaded.busy = false ∧ Config.KeyMaxLegal loaded.key.length ∧
      (1 ≤ ([7] : List Byte).length ∧ ([7] : List Byte).length ≤ loaded.key.length) ∧
      (1 ≤ k20.length ∧ k20.length ≤ loaded.key.length) ∧
      ((-2 ^ 63 : Int) ≤ -2 ^ 63 ∧ (-2 ^ 63 : Int) ≤ 2 ^ 63 - 1) ∧ (1 ≤ 1 ∧ 1 ≤ 10 ∧ 10 ≤ 10) := by decide

/-- Window 0 and the greatest; an empty token and one of 16 bytes; the other ranges as for the generate call. -/
theorem witness_VerifyCallAnswersTheWindow :
    loaded.busy = false ∧ Config.KeyMaxLegal loaded.key.length ∧
      (1 ≤ k20.length ∧ k20.length ≤ loaded.key.length) ∧ (([] : List Byte).length ≤ 16 ∧ (rep 0x30 16).length ≤ 16) ∧
      ((-2 ^ 63 : Int) ≤ -2 ^ 63 ∧ (2 ^ 63 - 1 : Int) ≤ 2 ^ 63 - 1) ∧ ((0 : Int) ≤ 0 ∧ (0 : Int) ≤ 2 ^ 31 - 1) ∧
      (1 ≤ 1 ∧ 1 ≤ 10 ∧ 10 ≤ 10) := by decide

end Sys2Proof.Tests
end

section
/-! PROOFS. The size of the KEY buffer, KEY_MAX (rules R11, R32), through every operation and so through
every step. -/

namespace Sys2Proof.Machine

/-- Reset clears KEY over its whole size (rule R210). -/
theorem resetBlock_key_length (s : State) : s.resetBlock.key.length = s.key.length := by
  simp [State.keyMax]

/-- ZEROIZE clears KEY over its whole size (rule R180). -/
theorem eraseSecrets_key_length (s : State) : s.eraseSecrets.key.length = s.key.length := by
  simp [State.keyMax]

theorem memWrite_key_length (s : State) (off : Nat) (v : Word) :
    (s.memWrite off v).key.length = s.key.length := by
  rw [State.memWrite]
  split
  · rfl
  · split
    · next r _ =>
      obtain ⟨hkey, -, -⟩ := writeReg_keeps s r v
      exact hkey
    · rfl

theorem hostWrite_key_length (s : State) (width off : Nat) (v : Word) :
    (s.hostWrite width off v).key.length = s.key.length := by
  obtain h | ⟨-, -, -, h⟩ := hostWrite_cases s width off v
  · rw [h, State.answer_key]
  · rw [h, State.answer_key, memWrite_key_length]

/-- A host read leaves the whole of KEY as it is (rule R61). -/
@[simp] theorem hostRead_key (s : State) (width off : Nat) : (s.hostRead width off).key = s.key := by
  rw [State.hostRead]
  split <;> rfl

/-- Only ZEROIZE writes KEY, and it keeps its size (rules R29, R180). -/
theorem exec_key_length {i : Instr} {s t : State} (h : exec i s = .next t) : t.key.length = s.key.length := by
  obtain ⟨_, _, _, h'⟩ | ⟨_, _, _, h'⟩ | ⟨_, _, _, ⟨_, _, h'⟩ | ⟨_, h'⟩⟩ | ⟨_, _, _, h'⟩ | ⟨_, _, _, h'⟩ | ⟨_, h'⟩ :=
    exec_cases i s <;> obtain rfl := Host.Outcome.next.inj (h.symm.trans h')
  case inr.inr.inr.inr.inr => exact eraseSecrets_key_length s
  all_goals rfl

theorem step_key_length {s t : State} (h : step s = .next t) : t.key.length = s.key.length := by
  obtain ⟨u, hu, -, hturn⟩ | ⟨e, rest, -, hevent⟩ := step_cases s
  · have hkey : u.key.length = s.key.length := by obtain rfl | rfl := hu <;> rfl
    rw [← hkey]
    obtain ⟨-, ⟨i, -, h'⟩ | ⟨-, h'⟩⟩ | ⟨-, h'⟩ := hturn
    · exact exec_key_length (h'.symm.trans h)
    · obtain rfl := Host.Outcome.next.inj (h.symm.trans h')
      rfl
    · obtain rfl := Host.Outcome.next.inj (h.symm.trans h')
      rfl
  · obtain ⟨width, off, -, h'⟩ | ⟨width, off, v, -, h'⟩ | ⟨-, h'⟩ := hevent <;>
      obtain rfl := Host.Outcome.next.inj (h.symm.trans h')
    · rw [hostRead_key, State.withAgenda_key]
    · rw [hostWrite_key_length, State.withAgenda_key]
    · rw [resetBlock_key_length, State.withAgenda_key]

/-- Settles O53: of a step's cases only a host write, a reset and ZEROIZE touch KEY, and each keeps its size. -/
theorem keyMaxIsFixed : Obligations.KeyMaxIsFixed := by
  unfold Obligations.KeyMaxIsFixed
  exact fun _ _ => step_key_length

end Sys2Proof.Machine
end

section
/-! PROOFS. The invariant on flags and results (rules R26, R31, R35, R88, R153, R190): it holds after reset, and every
step keeps it. A state whose flags and results are cleared meets it at once; a completed command is settled by what it
wrote. -/

namespace Sys2Proof.Machine

/-- MATCHED, ERR and the result registers as command issue and reset leave them (rules R38, R63). -/
def State.Cleared (s : State) : Prop := s.matched = false ∧ s.err = 0 ∧ s.ResultsCleared

theorem issue_cleared (s : State) (v : Word) : (s.issue v).Cleared := ⟨rfl, rfl, rfl, rfl, rfl⟩

theorem resetBlock_cleared (s : State) : s.resetBlock.Cleared := ⟨rfl, rfl, rfl, rfl, rfl⟩

/-- While BUSY the flags and results are still those of command issue. -/
theorem cleared_of_inv_of_busy {s : State} (hs : s.Inv) (hb : s.busy = true) : s.Cleared := by
  obtain ⟨-, hbusy, -⟩ := hs
  obtain ⟨-, hcleared⟩ := hbusy hb
  exact hcleared

/-! ### The clauses of the invariant -/

theorem matchedOk_of_not_matched {s : State} (h : s.matched = false) : s.MatchedOk := by
  intro hm
  rw [h] at hm
  cases hm

theorem errOk_of_err_eq_zero {s : State} (h : s.err = 0) : s.ErrOk := by
  rw [State.ErrOk, h]
  exact ⟨by decide, fun hne => absurd rfl hne⟩

theorem codeOk_of_code_cleared {s : State} (hlen : s.codeLen = 0) (hcode : s.code = Vector.replicate 12 0) :
    s.CodeOk := by
  rw [State.CodeOk, hlen, hcode]
  exact ⟨by decide, by simp, by simp, by simp⟩

theorem deltaOk_of_delta_eq_zero {s : State} (h : s.delta = 0) : s.DeltaOk := fun hne => absurd h hne

/-- With BUSY = 0 and DONE = 1 the clauses on BUSY and on the state after reset hold by themselves. -/
theorem inv_of_completed {s : State} (hb : s.busy = false) (hd : s.done = true)
    (hk : Config.KeyMaxLegal s.key.length) (hmatched : s.MatchedOk) (herr : s.ErrOk) (hcode : s.CodeOk)
    (hdelta : s.DeltaOk) : s.Inv :=
  ⟨hk, fun h => by simp [hb] at h, fun _ h => by simp [hd] at h, hmatched, herr, hcode, hdelta⟩

/-- Cleared flags and results meet the invariant, where BUSY excludes DONE and CMD is 0 before the first command. -/
theorem inv_of_cleared {s : State} (hk : Config.KeyMaxLegal s.key.length) (hc : s.Cleared)
    (hbusy : s.busy = true → s.done = false) (hfresh : s.busy = false → s.done = false → s.cmd = 0) : s.Inv := by
  have ⟨hm, he, hlen, hcode, hdelta⟩ := hc
  exact ⟨hk, fun hb => ⟨hbusy hb, hc⟩, fun hb hd => ⟨hfresh hb hd, hc⟩, matchedOk_of_not_matched hm,
    errOk_of_err_eq_zero he, codeOk_of_code_cleared hlen hcode, deltaOk_of_delta_eq_zero hdelta⟩

/-! ### Reset and host accesses -/

theorem inv_reset : State.reset.Inv := by
  refine inv_of_cleared ?_ ⟨rfl, rfl, rfl, rfl, rfl⟩ (fun _ => rfl) (fun _ _ => rfl)
  rw [show State.reset.key = List.replicate Config.suggestedKeyMax 0 from rfl, List.length_replicate]
  decide

theorem inv_resetBlock {s : State} (hs : s.Inv) : s.resetBlock.Inv := by
  refine inv_of_cleared ?_ (resetBlock_cleared s) (fun _ => rfl) (fun _ _ => rfl)
  rw [resetBlock_key_length]
  exact hs.1

theorem inv_issue {s : State} (v : Word) (hs : s.Inv) : (s.issue v).Inv :=
  inv_of_cleared hs.1 (issue_cleared s v) (fun _ => rfl) (fun hb => by cases hb)

theorem inv_memWrite {s : State} {off : Nat} (v : Word) (ha : off % 4 = 0) (hs : s.Inv) : (s.memWrite off v).Inv := by
  obtain h | ⟨-, -, h⟩ | ⟨-, -, _, _, _, _, _, _, _, _, _, _, hlen, h⟩ := memWrite_cases s off v ha <;> rw [h]
  · exact hs
  · exact inv_issue v hs
  · obtain ⟨hk, hrest⟩ := hs
    exact ⟨hlen ▸ hk, hrest⟩

theorem inv_hostWrite {s : State} (width off : Nat) (v : Word) (hs : s.Inv) : (s.hostWrite width off v).Inv := by
  obtain h | ⟨-, ha, -, h⟩ := hostWrite_cases s width off v <;> rw [h]
  · exact hs
  · exact inv_memWrite v ha hs

theorem inv_hostRead {s : State} (width off : Nat) (hs : s.Inv) : (s.hostRead width off).Inv := by
  rw [State.hostRead]
  split <;> exact hs

/-! ### Completion steps -/

theorem errorCode_le (e : ErrorKind) : e.code.toNat ≤ 6 := by cases e <;> decide

/-- Error entry writes ERR over cleared results (rule R193). -/
theorem inv_raise {s : State} (e : ErrorKind) (hk : Config.KeyMaxLegal s.key.length) (hc : s.Cleared) :
    (s.raise e).Inv := by
  obtain ⟨hm, -, hlen, hcode, hdelta⟩ := hc
  exact inv_of_completed rfl rfl hk (matchedOk_of_not_matched hm)
    ⟨errorCode_le e, fun _ => ⟨rfl, hm, hlen, hcode, hdelta⟩⟩ (codeOk_of_code_cleared hlen hcode)
    (deltaOk_of_delta_eq_zero hdelta)

/-- A decimal string in CODE, with its length in CODE_LEN, is digits and then zeros (rules R35, R88). -/
theorem codeOk_writeCode {s : State} {n : Nat} (m : Nat) (hn : n ≤ 10) (he : s.err = 0)
    (hcmd : s.cmd = 0x00000001 ∨ s.cmd = 0x00000003) : (s.writeCode n (decimal m n)).complete.CodeOk := by
  have hlen : (s.writeCode n (decimal m n)).complete.codeLen.toNat = n := by simp; omega
  have hcode (j : Fin 12) : (s.writeCode n (decimal m n)).complete.code[j] = byteAt (decimal m n) j :=
    codeBuffer_getElem _ _ j.isLt
  rw [State.CodeOk, hlen]
  refine ⟨hn, fun j hj => ?_, fun j hj => ?_, fun _ => ⟨rfl, he, hcmd⟩⟩
  · rw [hcode, byteAt_of_le _ _ (by simpa using hj)]
  · rw [hcode, byteAt_of_lt _ _ (by simpa using hj), decimal_getElem_toNat]
    omega

/-- GEN and TGEN write their code and leave MATCHED, ERR and DELTA cleared (rules R150, R171). -/
theorem inv_writeCode {s : State} {n : Nat} (key : List Byte) (c : Int) (h : Hash)
    (hk : Config.KeyMaxLegal s.key.length) (hc : s.Cleared) (hn : n ≤ 10) (hcmd : s.cmd = 0x00000001 ∨ s.cmd = 0x00000003) :
    (s.writeCode n (otp key c h n)).complete.Inv := by
  obtain ⟨hm, he, -, -, hdelta⟩ := hc
  exact inv_of_completed rfl rfl hk (matchedOk_of_not_matched hm) (errOk_of_err_eq_zero he)
    (codeOk_writeCode _ hn he hcmd) (deltaOk_of_delta_eq_zero hdelta)

/-- TVERIFY writes MATCHED and leaves the results cleared (rule R172). -/
theorem inv_writeMatched {s : State} (m : Bool) (hk : Config.KeyMaxLegal s.key.length) (hc : s.Cleared)
    (hcmd : s.cmd = 0x00000004) : (s.writeMatched m).complete.Inv := by
  obtain ⟨-, he, hlen, hcode, hdelta⟩ := hc
  exact inv_of_completed rfl rfl hk (fun _ => ⟨he, rfl, .inr hcmd⟩) (errOk_of_err_eq_zero he)
    (codeOk_of_code_cleared hlen hcode) (deltaOk_of_delta_eq_zero hdelta)

/-- VERIFY without a match leaves the results cleared (rule R151). -/
theorem inv_writeVerdict_noMatch {s : State} (hk : Config.KeyMaxLegal s.key.length) (hc : s.Cleared) :
    (s.writeVerdict false 0).complete.Inv := by
  obtain ⟨-, he, hlen, hcode, -⟩ := hc
  exact inv_of_cleared hk ⟨rfl, he, hlen, hcode, rfl⟩ (fun hb => by cases hb) (fun _ hd => by cases hd)

/-- VERIFY with a match writes a DELTA that the window bounds (rules R151, R153). -/
theorem inv_writeVerdict_match {s : State} {d : DWord} (hk : Config.KeyMaxLegal s.key.length) (hc : s.Cleared)
    (hcmd : s.cmd = 0x00000002) (hlo : -(2 ^ 31 - 1) ≤ d.toInt) (hhi : d.toInt ≤ 2 ^ 31 - 1) :
    (s.writeVerdict true d).complete.Inv := by
  obtain ⟨-, he, hlen, hcode, -⟩ := hc
  exact inv_of_completed rfl rfl hk (fun _ => ⟨he, rfl, .inl hcmd⟩) (errOk_of_err_eq_zero he)
    (codeOk_of_code_cleared hlen hcode) (fun _ => ⟨rfl, hcmd, hlo, hhi⟩)

/-- ZEROIZE leaves flags and results cleared (rule R180). -/
theorem inv_eraseSecrets {s : State} (hk : Config.KeyMaxLegal s.key.length) (hc : s.Cleared) :
    s.eraseSecrets.complete.Inv := by
  refine inv_of_cleared ?_ hc (fun hb => by cases hb) (fun _ hd => by cases hd)
  rw [State.complete_key, eraseSecrets_key_length]
  exact hk

/-- A match lies within a non-negative WINDOW of COUNTER, and so DELTA holds the whole distance (rule R153). -/
theorem windowSearch_distance {s : State} {x : Inputs} {c : Int} (hw : 0 ≤ s.windowInt)
    (h : windowSearch s x = some c) :
    -(2 ^ 31 - 1) ≤ (BitVec.ofInt 64 (c - s.counterInt)).toInt ∧
      (BitVec.ofInt 64 (c - s.counterInt)).toInt ≤ 2 ^ 31 - 1 := by
  obtain ⟨hlo, hhi, -, -⟩ := (firstHit_eq_some_iff _ _ _ _).mp h
  have hcounter : -2 ^ 63 ≤ s.counterInt ∧ s.counterInt < 2 ^ 63 := ⟨s.counter.le_toInt, s.counter.toInt_lt⟩
  have hwindow : s.windowInt < 2 ^ 31 := s.window.toInt_lt
  obtain ⟨hlc, hch, -, -, hlw, hhw⟩ := search_range s.counterInt s.windowInt hcounter.1 (by omega) hw
  simp only [candidateCount] at hhi
  rw [BitVec.toInt_ofInt_eq_self (by decide) (by omega) (by omega)]
  omega

/-- Every command's completion keeps the invariant, from a BUSY state with the command's word in CMD. -/
theorem inv_exec {i : Instr} {s t : State} (hs : s.Inv) (hb : s.busy = true) (hcmd : s.cmd = encode i)
    (h : exec i s = .next t) : t.Inv := by
  have hk := hs.1
  have hc := cleared_of_inv_of_busy hs hb
  obtain ⟨e, -, -, h'⟩ | ⟨x, rfl, hv, h'⟩ | ⟨x, rfl, hv, ⟨c, hsearch, h'⟩ | ⟨-, h'⟩⟩ | ⟨x, rfl, hv, h'⟩ |
      ⟨x, rfl, -, h'⟩ | ⟨rfl, h'⟩ := exec_cases i s <;> obtain rfl := Host.Outcome.next.inj (h.symm.trans h')
  · exact inv_raise e hk hc
  · obtain ⟨-, -, -, -, hn, -, -, hx⟩ := (validate_eq_ok_iff _ _ _).mp hv
    exact inv_writeCode _ _ _ hk hc (hx ▸ hn) (.inl hcmd)
  · obtain ⟨-, -, -, -, -, ⟨hw, -⟩, -⟩ := (validate_eq_ok_iff _ _ _).mp hv
    obtain ⟨hlo, hhi⟩ := windowSearch_distance (hw rfl) hsearch
    exact inv_writeVerdict_match hk hc hcmd hlo hhi
  · exact inv_writeVerdict_noMatch hk hc
  · obtain ⟨-, -, -, -, hn, -, -, hx⟩ := (validate_eq_ok_iff _ _ _).mp hv
    exact inv_writeCode _ _ _ hk hc (hx ▸ hn) (.inr hcmd)
  · exact inv_writeMatched _ hk hc hcmd
  · exact inv_eraseSecrets hk hc

theorem inv_step {s t : State} (hs : s.Inv) (h : step s = .next t) : t.Inv := by
  obtain ⟨u, hu, -, hturn⟩ | ⟨e, rest, -, hevent⟩ := step_cases s
  · have hinv : u.Inv := by obtain rfl | rfl := hu <;> exact hs
    obtain ⟨hb, ⟨i, hcmd, h'⟩ | ⟨-, h'⟩⟩ | ⟨-, h'⟩ := hturn
    · exact inv_exec hinv hb hcmd (h'.symm.trans h)
    · obtain rfl := Host.Outcome.next.inj (h.symm.trans h')
      exact inv_raise _ hinv.1 (cleared_of_inv_of_busy hinv hb)
    · obtain rfl := Host.Outcome.next.inj (h.symm.trans h')
      exact hinv
  · have hinv : (s.withAgenda rest).Inv := hs
    obtain ⟨width, off, -, h'⟩ | ⟨width, off, v, -, h'⟩ | ⟨-, h'⟩ := hevent <;>
      obtain rfl := Host.Outcome.next.inj (h.symm.trans h')
    · exact inv_hostRead width off hinv
    · exact inv_hostWrite width off v hinv
    · exact inv_resetBlock hinv

/-- Settles O54: while BUSY flags and results are cleared, so each completion is judged by what it writes; host writes
touch them only by command issue, which clears them. -/
theorem everyStepKeepsInv : Obligations.EveryStepKeepsInv := by
  unfold Obligations.EveryStepKeepsInv
  exact fun _ _ => inv_step

/-- Settles O55: reset leaves cleared flags and results, CMD = 0 and a KEY of 256 bytes. -/
theorem invHoldsAtReset : Obligations.InvHoldsAtReset := by
  unfold Obligations.InvHoldsAtReset
  exact inv_reset

end Sys2Proof.Machine
end

section
/-! PROOFS. What commands and host writes leave alone: the operand registers (rule R21) and CMD (rule R29). -/

namespace Sys2Proof.Machine

/-- Settles O50: of the cases of a completion only ZEROIZE's writes an operand register. -/
theorem commandsLeaveOperandsAlone : Obligations.CommandsLeaveOperandsAlone := by
  unfold Obligations.CommandsLeaveOperandsAlone
  intro i s t h
  obtain ⟨_, _, _, h'⟩ | ⟨_, _, _, h'⟩ | ⟨_, _, _, ⟨_, _, h'⟩ | ⟨_, h'⟩⟩ | ⟨_, _, _, h'⟩ | ⟨_, _, _, h'⟩ | ⟨hi, h'⟩ :=
    exec_cases i s <;> obtain rfl := Host.Outcome.next.inj (h.symm.trans h')
  case inr.inr.inr.inr.inr => exact ⟨rfl, rfl, rfl, rfl, rfl, rfl, rfl, fun hne => absurd hi hne⟩
  all_goals exact ⟨rfl, rfl, rfl, rfl, rfl, rfl, rfl, fun _ => ⟨rfl, rfl, rfl, rfl⟩⟩

theorem exec_cmd {i : Instr} {s t : State} (h : exec i s = .next t) : t.cmd = s.cmd := by
  obtain ⟨u, hu, -, -, hcmd, -⟩ := exec_finishes i s
  obtain rfl := Host.Outcome.next.inj (h.symm.trans hu)
  exact hcmd

@[simp] theorem hostRead_cmd (s : State) (width off : Nat) : (s.hostRead width off).cmd = s.cmd := by
  rw [State.hostRead]
  split <;> rfl

/-- A host write keeps CMD, or is an accepted word write at offset 0, which sets CMD to the word (rules R29, R62). -/
theorem hostWrite_cmd_cases (s : State) (width off : Nat) (v : Word) :
    (s.hostWrite width off v).cmd = s.cmd ∨
      (s.busy = false ∧ width = 4 ∧ off = 0 ∧ (s.hostWrite width off v).cmd = v) := by
  obtain h | ⟨hwidth, ha, -, h⟩ := hostWrite_cases s width off v
  · exact .inl (by rw [h, State.answer_cmd])
  · rw [h, State.answer_cmd]
    obtain hm | ⟨hb, hoff, hm⟩ | ⟨-, -, _, _, _, _, _, _, _, _, _, _, -, hm⟩ := memWrite_cases s off v ha <;> rw [hm]
    · exact .inl rfl
    · exact .inr ⟨hb, hwidth, hoff, rfl⟩
    · exact .inl rfl

/-- Settles O51: a step that changes CMD is no engine's turn and no read, so it is a reset or an accepted write to
CMD. -/
theorem cmdChangesOnlyByIssueOrReset : Obligations.CmdChangesOnlyByIssueOrReset := by
  unfold Obligations.CmdChangesOnlyByIssueOrReset
  intro s t h hne
  obtain ⟨u, hu, -, hturn⟩ | ⟨e, rest, hagenda, hevent⟩ := step_cases s
  · have hcmd : u.cmd = s.cmd := by obtain rfl | rfl := hu <;> rfl
    refine absurd ?_ hne
    rw [← hcmd]
    obtain ⟨-, ⟨i, -, h'⟩ | ⟨-, h'⟩⟩ | ⟨-, h'⟩ := hturn
    · exact exec_cmd (h'.symm.trans h)
    · obtain rfl := Host.Outcome.next.inj (h.symm.trans h')
      rfl
    · obtain rfl := Host.Outcome.next.inj (h.symm.trans h')
      rfl
  · obtain ⟨width, off, -, h'⟩ | ⟨width, off, v, rfl, h'⟩ | ⟨rfl, -⟩ := hevent
    · obtain rfl := Host.Outcome.next.inj (h.symm.trans h')
      exact absurd (hostRead_cmd _ width off) hne
    · obtain rfl := Host.Outcome.next.inj (h.symm.trans h')
      obtain hsame | ⟨hb, rfl, rfl, hcmd⟩ := hostWrite_cmd_cases (s.withAgenda rest) width off v
      · exact absurd hsame hne
      · exact .inl ⟨hb, rest, by rw [hcmd]; exact hagenda⟩
    · exact .inr ⟨rest, hagenda⟩

end Sys2Proof.Machine
end

section
/-! PROOFS. What a host read answers: the bits of an operand register that were written (rule R20), and nothing of KEY
(rule R33). -/

namespace Sys2Proof.Machine

/-- A read of the register just written, while BUSY = 0 (rules R61, R62). -/
theorem memRead_memWrite_offset (s : State) (r : Reg) (v : Word) (hb : s.busy = false)
    (hr : r.present s.keyMax = true) : (s.memWrite r.offset v).memRead r.offset = (s.writeReg r v).readReg r := by
  obtain ⟨hkey, -, -⟩ := writeReg_keeps s r v
  have hmax : (s.writeReg r v).keyMax = s.keyMax := hkey
  rw [memWrite_offset s r v hb hr, memRead_offset _ r (by rw [hmax]; exact hr)]

/-- The low n bits of a word, as a mask keeps them. -/
theorem setWidth_extractLsb'_zero (v : Word) (n : Nat) :
    (v.extractLsb' 0 n).setWidth 32 = v &&& BitVec.ofNat 32 (2 ^ n - 1) := by
  apply BitVec.eq_of_getLsbD_eq
  intro i hi
  rw [BitVec.getLsbD_and, BitVec.getLsbD_ofNat, Nat.testBit_two_pow_sub_one]
  simp [hi, Bool.and_comm]

/-- CFG keeps HASH in bits 1..0 and DIGITS in bits 11..8 (rules R20, R28). -/
theorem readReg_writeReg_cfg (s : State) (v : Word) : (s.writeReg .cfg v).readReg .cfg = v &&& 0x00000F03 := by
  have mask : ∀ i < 32, (0x00000F03 : Word).getLsbD i = (decide (i < 2) || decide (8 ≤ i) && decide (i < 12)) := by
    decide
  apply BitVec.eq_of_getLsbD_eq
  intro i hi
  rw [BitVec.getLsbD_and, mask i hi]
  simp only [writeReg_cfg, State.readReg, BitVec.getLsbD_ofNat, Nat.testBit_or, Nat.testBit_shiftLeft,
    BitVec.testBit_toNat, BitVec.getLsbD_extractLsb']
  by_cases h : 8 ≤ i
  · have hlo : ¬i < 2 := by omega
    have hdigits : i - 8 < 4 ↔ i < 12 := by omega
    simp [hi, h, hlo, hdigits, Bool.and_comm]
  · simp [hi, h, Bool.and_comm]

/-- KEY_LEN keeps bits 15..0 (rule R32). -/
theorem readReg_writeReg_keyLen (s : State) (v : Word) :
    (s.writeReg .keyLen v).readReg .keyLen = v &&& 0x0000FFFF := setWidth_extractLsb'_zero v 16

/-- TOKEN_LEN keeps bits 7..0 (rule R34). -/
theorem readReg_writeReg_tokenLen (s : State) (v : Word) :
    (s.writeReg .tokenLen v).readReg .tokenLen = v &&& 0x000000FF := setWidth_extractLsb'_zero v 8

/-- The four bytes of a word stored into TOKEN read back as that word (rule R65). -/
theorem bufferWord_storeTokenWord (bs : Vector Byte 16) (k : Nat) (v : Word) (hk : k < 4) :
    bufferWord (storeTokenWord bs k v).toList k = v := by
  have hbyte (j : Nat) (hj : j < 4) : byteAt (storeTokenWord bs k v).toList (4 * k + j) = wordByte v j := by
    rw [byteAt_of_lt _ _ (by rw [Vector.length_toList]; omega), Vector.getElem_toList,
      storeTokenWord_getElem _ _ _ _ (by omega), if_pos (by omega), show (4 * k + j) % 4 = j by omega]
  apply BitVec.eq_of_toNat_eq
  rw [bufferWord_toNat, ← intBe_wordBytes v, ← hbyte 0, ← hbyte 1, ← hbyte 2, ← hbyte 3] <;> simp

/-- Settles O15: each operand register reads back the bits it keeps; offsets from 0x100 on read 0. -/
theorem writtenRegistersReadBack : Obligations.WrittenRegistersReadBack := by
  unfold Obligations.WrittenRegistersReadBack
  intro s v hb
  have back := memRead_memWrite_offset s (v := v) (hb := hb)
  refine ⟨(back .cfg rfl).trans (readReg_writeReg_cfg s v), back .window rfl,
    (back .counterHi rfl).trans (hiWord_withHi _ _), (back .counterLo rfl).trans (loWord_withLo _ _),
    back .timestep rfl, (back .nowMsHi rfl).trans (hiWord_withHi _ _), (back .nowMsLo rfl).trans (loWord_withLo _ _),
    (back .keyLen rfl).trans (readReg_writeReg_keyLen s v), (back .tokenLen rfl).trans (readReg_writeReg_tokenLen s v),
    fun k hk => ?_, fun k => memRead_of_ge _ _ (by omega)⟩
  exact (back (.tokenW k) (by simpa [Reg.present] using hk)).trans (bufferWord_storeTokenWord s.token k v hk)

/-- No register's read value depends on KEY (rule R33). -/
theorem readReg_withKey (s : State) (key : List Byte) (r : Reg) : { s with key := key }.readReg r = s.readReg r := by
  cases r <;> rfl

/-- No read depends on KEY, its size included: below the KEY words the map is the same for every KEY_MAX (rule R33). -/
theorem memRead_withKey (s : State) (key : List Byte) (off : Nat) :
    { s with key := key }.memRead off = s.memRead off := by
  by_cases hoff : 0x058 ≤ off
  · rw [memRead_of_ge _ _ hoff, memRead_of_ge _ _ hoff]
  · simp only [State.memRead, regAt_of_lt _ off (by omega), readReg_withKey]

/-- A step that takes a host read answers and changes nothing else (rules R61, R67). -/
theorem step_read (s : State) (rest : List Event) (width off : Nat) :
    step { s with agenda := .read width off :: rest } =
      .next { s with
        agenda := rest
        reply := if accessOk width off then .data ((s.withAgenda rest).memRead off) else .refused } := by
  rw [step_of_event _ _ rest rfl, takeEvent, State.hostRead]
  split <;> rfl

/-- Settles O16: the answer of a read is a value of `memRead`, which no KEY changes and which is 0 from 0x100 on. -/
theorem keyIsNeverRead : Obligations.KeyIsNeverRead := by
  unfold Obligations.KeyIsNeverRead
  intro s key' rest width off
  refine ⟨_, step_read s rest width off, ?_, ?_, ?_⟩
  · rw [step_read { s with key := key' }, ← memRead_withKey (s.withAgenda rest) key' off]
    rfl
  · intro hwidth ha hlo hhi
    rw [if_pos ((accessOk_iff _ _).mpr ⟨hwidth, ha, by omega⟩), memRead_of_ge _ _ (by omega)]
  · rintro rfl rfl
    rw [if_pos (by decide)]
    exact congrArg _ (memRead_offset _ .keyLen rfl)

end Sys2Proof.Machine
end

section
/-! PROOFS. What the commands read: two states with the same operands give the same results (rules R150, R151, R171,
R172, R191), and a block without a secret gives none (rule R38). -/

namespace Sys2Proof.Machine

/-! ### Reset (rule R38) -/

/-- Without a secret every generating or verifying command reports InvalidSecret, the first check of rule R191. -/
theorem exec_of_keyLen_eq_zero {i : Instr} {s : State} (hi : i ≠ .zeroize) (h : s.keyLen = 0) :
    exec i s = .next (s.raise .invalidSecret) := by
  have hv (cmd : Instr) : validate cmd s = .error .invalidSecret := by simp [validate, h]
  cases i with
  | zeroize => exact absurd rfl hi
  | gen => exact withInputs_of_error _ (hv _)
  | verify => exact withInputs_of_error _ (hv _)
  | tgen => exact withInputs_of_error _ (hv _)
  | tverify => exact withInputs_of_error _ (hv _)

/-- Settles O18: each register by evaluation, and the commands' error because reset leaves KEY_LEN = 0. -/
theorem resetValues : Obligations.ResetValues := by
  unfold Obligations.ResetValues
  exact ⟨rfl, rfl, rfl, rfl, rfl, rfl, rfl, rfl, rfl, fun _ hb => List.eq_of_mem_replicate hb, rfl, rfl, rfl, rfl, rfl,
    fun _ hi => exec_of_keyLen_eq_zero hi rfl⟩

/-! ### The operands all four commands validate -/

/-- Two states agree on KEY_MAX, KEY_LEN, KEY[0 .. KEY_LEN-1] and CFG, the operands that every generating or verifying
command reads (rules R83, R191). -/
structure SameInputs (s s' : State) : Prop where
  keyMax : s'.key.length = s.key.length
  keyLen : s'.keyLen = s.keyLen
  secret : s'.key.take s.keyLen.toNat = s.key.take s.keyLen.toNat
  hash : s'.cfgHash = s.cfgHash
  digits : s'.cfgDigits = s.cfgDigits

/-- Validation reads the common operands, WINDOW for VERIFY, and TIMESTEP for TGEN and TVERIFY (rule R191). -/
theorem validate_congr {cmd : Instr} {s s' : State} (hin : SameInputs s s')
    (hw : cmd = .verify → s'.window = s.window)
    (ht : cmd = .tgen ∨ cmd = .tverify → s'.timestep = s.timestep) : validate cmd s' = validate cmd s := by
  obtain ⟨hmax, hlen, hsecret, hhash, hdigits⟩ := hin
  cases cmd <;> simp [validate, State.keyMax, State.digits, State.secret, State.windowInt, State.timestepNat, *]

/-- The derived counter reads TIMESTEP and NOW_MS only (rule R170). -/
theorem derivedCounter_congr {s s' : State} (ht : s'.timestep = s.timestep) (hn : s'.nowMs = s.nowMs) :
    s'.derivedCounter = s.derivedCounter := by
  simp only [State.derivedCounter, State.nowMsInt, State.timestepNat, hn, ht]

/-- Two runs of a validating command that validate alike end alike: to relate their next states, relate their error
entries and their effects. -/
theorem withInputs_relate {R : State → State → Prop} {cmd : Instr} {s s' t t' : State} {f f' : Inputs → State}
    (hv : validate cmd s' = validate cmd s) (herr : ∀ e, R (s.raise e) (s'.raise e))
    (hok : ∀ x, R (f x).complete (f' x).complete) (h : withInputs cmd s f = .next t)
    (h' : withInputs cmd s' f' = .next t') : R t t' := by
  cases hx : validate cmd s with
  | error e =>
    obtain rfl := Host.Outcome.next.inj ((withInputs_of_error f hx).symm.trans h)
    obtain rfl := Host.Outcome.next.inj ((withInputs_of_error f' (hv.trans hx)).symm.trans h')
    exact herr e
  | ok x =>
    obtain rfl := Host.Outcome.next.inj ((withInputs_of_ok f hx).symm.trans h)
    obtain rfl := Host.Outcome.next.inj ((withInputs_of_ok f' (hv.trans hx)).symm.trans h')
    exact hok x

/-! ### GEN and TGEN -/

/-- What GEN and TGEN report is the same. -/
abbrev SameCode (t t' : State) : Prop := t'.codeLen = t.codeLen ∧ t'.code = t.code ∧ t'.err = t.err

/-- The code of the same counter from the same inputs is the same. -/
theorem withInputs_writeCode_congr {cmd : Instr} {s s' t t' : State} {c c' : Int}
    (hv : validate cmd s' = validate cmd s) (hc : c' = c) (he : s.err = 0) (he' : s'.err = 0) (hr : s.ResultsCleared)
    (hr' : s'.ResultsCleared)
    (h : withInputs cmd s (fun x => s.writeCode x.digits (otp x.key c x.hash x.digits)) = .next t)
    (h' : withInputs cmd s' (fun x => s'.writeCode x.digits (otp x.key c' x.hash x.digits)) = .next t') :
    SameCode t t' := by
  obtain ⟨hlen, hcode, -⟩ := hr
  obtain ⟨hlen', hcode', -⟩ := hr'
  have herr (e : ErrorKind) : SameCode (s.raise e) (s'.raise e) :=
    ⟨hlen'.trans hlen.symm, hcode'.trans hcode.symm, rfl⟩
  have hok (x : Inputs) : SameCode (s.writeCode x.digits (otp x.key c x.hash x.digits)).complete
      (s'.writeCode x.digits (otp x.key c' x.hash x.digits)).complete := by
    rw [hc]
    exact ⟨rfl, rfl, he'.trans he.symm⟩
  exact withInputs_relate hv herr hok h h'

/-- Settles O48: validation agrees, and the code is that of the same counter, COUNTER or the derived one. -/
theorem generatingReadsOnlyItsOperands : Obligations.GeneratingReadsOnlyItsOperands := by
  unfold Obligations.GeneratingReadsOnlyItsOperands
  intro s s' t t' hmax hlen hsecret hhash hdigits he he' hr hr'
  have hin : SameInputs s s' := ⟨hmax, hlen, hsecret, hhash, hdigits⟩
  refine ⟨fun hcounter h h' => ?_, fun htimestep hnow h h' => ?_⟩
  · have hv : validate .gen s' = validate .gen s := validate_congr hin (by simp) (by simp)
    exact withInputs_writeCode_congr hv (congrArg BitVec.toInt hcounter) he he' hr hr' h h'
  · have hv : validate .tgen s' = validate .tgen s := validate_congr hin (by simp) (fun _ => htimestep)
    exact withInputs_writeCode_congr hv (derivedCounter_congr htimestep hnow) he he' hr hr' h h'

/-! ### VERIFY and TVERIFY -/

/-- What VERIFY and TVERIFY report is the same. -/
abbrev SameVerdict (t t' : State) : Prop := t'.matched = t.matched ∧ t'.delta = t.delta ∧ t'.err = t.err

/-- Token equality reads only the bytes below TOKEN_LEN (rule R107). -/
theorem tokenEqual_congr {n : Nat} {token token' : Vector Byte 16} (h : token'.toList.take n = token.toList.take n)
    (code : List Byte) : tokenEqual n token' code = tokenEqual n token code := by
  have hbyte (j : Nat) (hj : j < n) : token'.toList[j]? = token.toList[j]? := by
    rw [← List.getElem?_take_of_lt hj, h, List.getElem?_take_of_lt hj]
  rw [Bool.eq_iff_iff, tokenEqual_iff, tokenEqual_iff]
  refine and_congr_right fun hn => forall₂_congr fun j hj => ?_
  rw [hbyte j (hn ▸ hj)]

/-- Settles O49: validation agrees, the candidates and their codes agree, and so does each comparison with the token. -/
theorem verifyingReadsOnlyItsOperands : Obligations.VerifyingReadsOnlyItsOperands := by
  unfold Obligations.VerifyingReadsOnlyItsOperands
  intro s s' t t' hmax hlen hsecret hhash hdigits htokLen htoken he he' hm hm' ⟨_, _, hd⟩ ⟨_, _, hd'⟩
  have hin : SameInputs s s' := ⟨hmax, hlen, hsecret, hhash, hdigits⟩
  have hsame (code : List Byte) : tokenEqual s'.tokLen s'.token code = tokenEqual s.tokLen s.token code := by
    rw [State.tokLen, htokLen]
    exact tokenEqual_congr htoken code
  have herr (e : ErrorKind) : SameVerdict (s.raise e) (s'.raise e) := ⟨hm'.trans hm.symm, hd'.trans hd.symm, rfl⟩
  refine ⟨fun hcounter hwindow h h' => ?_, fun htimestep hnow h h' => ?_⟩
  · have hv : validate .verify s' = validate .verify s := validate_congr hin (fun _ => hwindow) (by simp)
    have hsearch (x : Inputs) : windowSearch s' x = windowSearch s x := by
      have hhit : candidateHit s' x = candidateHit s x := funext fun i => hsame _
      simp only [windowSearch, hhit, State.counterInt, State.windowInt, hcounter, hwindow]
    refine withInputs_relate hv herr (fun x => ?_) h h'
    rw [hsearch]
    cases windowSearch s x with
    | some i => exact ⟨rfl, by simp [State.counterInt, hcounter], he'.trans he.symm⟩
    | none => exact ⟨rfl, rfl, he'.trans he.symm⟩
  · have hv : validate .tverify s' = validate .tverify s := validate_congr hin (by simp) (fun _ => htimestep)
    refine withInputs_relate hv herr (fun x => ?_) h h'
    exact ⟨by simp [hsame, derivedCounter_congr htimestep hnow], hd'.trans hd.symm, he'.trans he.symm⟩

end Sys2Proof.Machine
end

section
/-! PROOFS. Words of the register space as numbers (rules R61, R62, R65, R66): what a read's fields add up to, what a
write keeps of a word, and the bytes of a word of a buffer. -/

namespace Sys2Proof.Machine

/-- A field above the bits of a number adds its weight (rule R61). -/
theorem or_shiftLeft_eq_add {a i : Nat} (h : a < 2 ^ i) (b : Nat) : a ||| b <<< i = a + b * 2 ^ i := by
  rw [Nat.or_comm, ← Nat.shiftLeft_add_eq_or_of_lt h, Nat.shiftLeft_eq, Nat.add_comm]

theorem flagBit_eq_toNat (b : Bool) : flagBit b = b.toNat := by cases b <;> rfl

/-- STATUS reads as BUSY, DONE, MATCHED and ERR at their bits (rules R30, R61). -/
theorem statusWord_toNat (s : State) :
    s.statusWord.toNat = s.busy.toNat + 2 * s.done.toNat + 4 * s.matched.toNat + 16 * s.err.toNat := by
  have hbusy := s.busy.toNat_le
  have hdone := s.done.toNat_le
  have hmatched := s.matched.toNat_le
  have herr := s.err.isLt
  simp only [State.statusWord, flagBit_eq_toNat, BitVec.toNat_ofNat]
  rw [or_shiftLeft_eq_add (a := s.busy.toNat) (i := 1) (by omega), or_shiftLeft_eq_add (i := 2) (by omega),
    or_shiftLeft_eq_add (i := 4) (by omega)]
  omega

/-- CFG reads as HASH and DIGITS at their bits (rules R28, R61). -/
theorem readReg_cfg_toNat (s : State) : (s.readReg .cfg).toNat = s.cfgHash.toNat + 256 * s.cfgDigits.toNat := by
  have hhash := s.cfgHash.isLt
  have hdigits := s.cfgDigits.isLt
  simp only [State.readReg, BitVec.toNat_ofNat]
  rw [or_shiftLeft_eq_add (by omega)]
  omega

/-- The field of n bits that a register keeps of a written word, from bit i on (rule R62). -/
theorem extractLsb'_eq_ofNat (v : Word) (i n : Nat) :
    v.extractLsb' i n = BitVec.ofNat n (v.toNat / 2 ^ i % 2 ^ n) := by
  apply BitVec.eq_of_toNat_eq
  rw [BitVec.extractLsb'_toNat, BitVec.toNat_ofNat, Nat.mod_mod, Nat.shiftRight_eq_div_pow]

theorem extractLsb'_zero_eq_ofNat (v : Word) (n : Nat) : v.extractLsb' 0 n = BitVec.ofNat n (v.toNat % 2 ^ n) := by
  rw [extractLsb'_eq_ofNat, Nat.pow_zero, Nat.div_one]

theorem withHi_eq_ofNat (x : DWord) (v : Word) :
    withHi x v = BitVec.ofNat 64 (v.toNat * 2 ^ 32 + x.toNat % 2 ^ 32) := by
  rw [← withHi_toNat, BitVec.ofNat_toNat, BitVec.setWidth_eq]

theorem withLo_eq_ofNat (x : DWord) (v : Word) :
    withLo x v = BitVec.ofNat 64 (x.toNat / 2 ^ 32 * 2 ^ 32 + v.toNat) := by
  rw [← withLo_toNat, BitVec.ofNat_toNat, BitVec.setWidth_eq]

/-- Byte j of a word is its digit of weight 256^(3-j) (rule R65). -/
theorem wordByte_toNat_eq_digit (v : Word) (j : Nat) : (wordByte v j).toNat = v.toNat / 256 ^ (3 - j) % 256 := by
  rw [wordByte_toNat, show 24 - 8 * j = 8 * (3 - j) by omega, Nat.pow_mul]

/-- A word inside a buffer reads as the buffer's four bytes there (rule R65). -/
theorem bufferWord_toNat_eq_slice (bs : List Byte) (k : Nat) (h : 4 * k + 3 < bs.length) :
    (bufferWord bs k).toNat = intBe ((bs.drop (4 * k)).take 4) := by
  rw [bufferWord_toNat, byteAt_of_lt _ _ (by omega), byteAt_of_lt _ _ (by omega), byteAt_of_lt _ _ (by omega),
    byteAt_of_lt _ _ h, List.drop_eq_getElem_cons (by omega), List.drop_eq_getElem_cons (by omega),
    List.drop_eq_getElem_cons (by omega), List.drop_eq_getElem_cons h]
  rfl

/-- Big-endian strings end to end are the string of the number they make together (rule R14). -/
theorem beBytes_append (m n a b : Nat) (h : b < 256 ^ n) :
    beBytes m a ++ beBytes n b = beBytes (m + n) (a * 256 ^ n + b) := by
  induction n generalizing b with
  | zero =>
    obtain rfl : b = 0 := by simpa using h
    simp [beBytes]
  | succ n ih =>
    rw [Nat.pow_succ] at h
    have hdiv : (a * (256 ^ n * 256) + b) / 256 = a * 256 ^ n + b / 256 := by
      rw [← Nat.mul_assoc, Nat.add_comm, Nat.add_mul_div_right _ _ (by decide), Nat.add_comm]
    have hlast : BitVec.ofNat 8 (a * (256 ^ n * 256) + b) = BitVec.ofNat 8 b := by
      apply BitVec.eq_of_toNat_eq
      rw [BitVec.toNat_ofNat, BitVec.toNat_ofNat, ← Nat.mul_assoc]
      omega
    rw [← Nat.add_assoc, Nat.pow_succ, beBytes_succ, beBytes_succ, hdiv, hlast, ← List.append_assoc,
      ih _ (by omega)]

/-- The bytes of the two words of a 64-bit register are its eight bytes (rule R66). -/
theorem beBytes_hiWord_append_loWord (x : DWord) :
    beBytes 4 (hiWord x).toNat ++ beBytes 4 (loWord x).toNat = beBytes 8 x.toNat := by
  rw [beBytes_append _ _ _ _ (loWord x).isLt, hiWord_toNat, loWord_toNat]
  congr 1
  omega

/-- Settles O17: the two words are the halves of COUNTER, and COUNTER is the 64-bit pattern of its signed value. -/
theorem counterWordsAreTheMessage : Obligations.CounterWordsAreTheMessage := by
  unfold Obligations.CounterWordsAreTheMessage
  intro s
  have hhi : s.memRead 0x010 = hiWord s.counter := memRead_offset s .counterHi rfl
  have hlo : s.memRead 0x014 = loWord s.counter := memRead_offset s .counterLo rfl
  rw [hhi, hlo, beBytes_hiWord_append_loWord, counterBytes, BitVec.ofInt_toInt]

end Sys2Proof.Machine
end

section
/-! PROOFS. One host access as a step (rules R61, R62, R63, R64, R67): the answer of a read, and what a write leaves. -/

namespace Sys2Proof.Machine

/-! ### The accesses the block implements, and the others -/

/-- An aligned word read of the space answers `memRead` and changes no register (rule R61). -/
theorem step_read_word (s : State) (rest : List Event) {off : Nat} (ha : off % 4 = 0) (hlt : off < 0x1000) :
    step { s with agenda := .read 4 off :: rest } = .next { s with agenda := rest, reply := .data (s.memRead off) } := by
  rw [step_read, if_pos ((accessOk_iff _ _).mpr ⟨rfl, ha, hlt⟩)]
  rfl

/-- A step that takes a host write. -/
theorem step_write (s : State) (rest : List Event) (width off : Nat) (v : Word) :
    step { s with agenda := .write width off v :: rest } = .next ((s.withAgenda rest).hostWrite width off v) := by
  rw [step_of_event _ _ rest rfl]
  rfl

/-- An aligned word write of the space does what `memWrite` does (rule R62). -/
theorem hostWrite_word (s : State) (v : Word) {off : Nat} (ha : off % 4 = 0) (hlt : off < 0x1000) :
    s.hostWrite 4 off v = (s.memWrite off v).answer .written := by
  rw [State.hostWrite, if_pos ((accessOk_iff _ _).mpr ⟨rfl, ha, hlt⟩)]

/-- An aligned word write that `memWrite` ignores changes no register (rule R62). -/
theorem step_write_ignored (s : State) (rest : List Event) (v : Word) {off : Nat} (ha : off % 4 = 0)
    (hlt : off < 0x1000) (h : (s.withAgenda rest).memWrite off v = s.withAgenda rest) :
    step { s with agenda := .write 4 off v :: rest } = .next { s with agenda := rest, reply := .written } := by
  rw [step_write, hostWrite_word _ _ ha hlt, h]
  rfl

/-- Settles O13: the bus refuses these accesses, and a refusal changes only the last answer. -/
theorem otherAccessesAreRefused : Obligations.OtherAccessesAreRefused := by
  unfold Obligations.OtherAccessesAreRefused
  intro s rest width off v h
  have hrefused : ¬accessOk width off = true := by
    rw [accessOk_iff]
    omega
  refine ⟨?_, ?_⟩
  · rw [step_read, if_neg hrefused]
  · rw [step_write, State.hostWrite, if_neg hrefused]
    rfl

/-- A write to a reserved offset is ignored, BUSY or not (rule R64). -/
theorem memWrite_reserved (s : State) (v : Word) {off : Nat} (h : regAt s.keyMax off = none) : s.memWrite off v = s := by
  simp [State.memWrite, h]

/-- Settles O14: the map has no register at these offsets, whatever KEY_MAX is. -/
theorem reservedOffsetsHoldNothing : Obligations.ReservedOffsetsHoldNothing := by
  unfold Obligations.ReservedOffsetsHoldNothing
  intro s rest off v ha hle h
  have hnone : regAt s.keyMax off = none := regAt_reserved _ _ (by rw [State.keyMax]; omega)
  refine ⟨?_, step_write_ignored s rest v ha (by omega) (memWrite_reserved _ v hnone)⟩
  rw [step_read_word s rest ha (by omega), State.memRead, hnone]

/-! ### Reads (rule R61) -/

/-- Settles O8: the answer is `memRead` at the offset, and each clause of the table is the value of the register that
stands there. -/
theorem hostReadTable : Obligations.HostReadTable := by
  unfold Obligations.HostReadTable
  intro s rest off ha hle
  have reg (r : Reg) (hr : r.present s.keyMax = true) (ho : off = r.offset) : s.memRead off = s.readReg r := by
    rw [ho, memRead_offset s r hr]
  have num (r : Reg) (hr : r.present s.keyMax = true) (ho : off = r.offset) :
      (s.memRead off).toNat = (s.readReg r).toNat := congrArg BitVec.toNat (reg r hr ho)
  refine ⟨s.memRead off, step_read_word s rest ha (by omega), reg .cmd rfl,
    fun h => (num .status rfl h).trans (statusWord_toNat s), fun h => (num .cfg rfl h).trans (readReg_cfg_toNat s),
    reg .window rfl, fun h => (num .counterHi rfl h).trans (hiWord_toNat _),
    fun h => (num .counterLo rfl h).trans (loWord_toNat _), reg .timestep rfl,
    fun h => (num .nowMsHi rfl h).trans (hiWord_toNat _), fun h => (num .nowMsLo rfl h).trans (loWord_toNat _),
    fun h => (num .keyLen rfl h).trans (BitVec.toNat_setWidth_of_le (by decide)),
    fun h => (num .tokenLen rfl h).trans (BitVec.toNat_setWidth_of_le (by decide)), fun hlo hhi => ?tokenWords,
    fun h => (num .codeLen rfl h).trans (BitVec.toNat_setWidth_of_le (by decide)), fun hlo hhi => ?codeWords,
    fun h => (num .deltaHi rfl h).trans (hiWord_toNat _), fun h => (num .deltaLo rfl h).trans (loWord_toNat _), ?zeros⟩
  case tokenWords =>
    obtain ⟨k, rfl⟩ : ∃ k, off = 0x030 + 4 * k := ⟨(off - 0x030) / 4, by omega⟩
    have hk : k < 4 := by omega
    rw [num (.tokenW k) (decide_eq_true hk) rfl, Nat.add_sub_cancel_left]
    exact bufferWord_toNat_eq_slice _ k (by rw [Vector.length_toList]; omega)
  case codeWords =>
    obtain ⟨k, rfl⟩ : ∃ k, off = 0x044 + 4 * k := ⟨(off - 0x044) / 4, by omega⟩
    have hk : k < 3 := by omega
    rw [num (.codeW k) (decide_eq_true hk) rfl, Nat.add_sub_cancel_left]
    exact bufferWord_toNat_eq_slice _ k (by rw [Vector.length_toList]; omega)
  case zeros =>
    rintro (rfl | h)
    · rw [State.memRead, regAt_reserved _ _ (.inl rfl)]
    · exact memRead_of_ge s off h

/-! ### Writes while BUSY = 0 (rule R62) -/

/-- An aligned word write of a register the map has stores in it and changes nothing else (rule R62). -/
theorem step_write_present {s : State} (r : Reg) (rest : List Event) (v : Word) (hb : s.busy = false)
    (hr : r.present s.keyMax = true) (ha : r.offset % 4 = 0 ∧ r.offset < 0x1000) :
    step { s with agenda := writeEvent r v :: rest } =
      .next (((s.withAgenda rest).writeReg r v).answer .written) :=
  step_write_reg _ rest r v rfl hb hr ha

/-- Settles O12: a write at offset 0 is command issue. -/
theorem commandIssue : Obligations.CommandIssue := by
  unfold Obligations.CommandIssue
  intro s rest v hb
  exact step_write_present .cmd rest v hb rfl (by decide)

/-- The result registers CODE_LEN, CODE and DELTA are read-only (rule R62). -/
theorem memWrite_result (s : State) (v : Word) {off : Nat} (ha : off % 4 = 0) (hlo : 0x040 ≤ off) (hhi : off ≤ 0x054) :
    s.memWrite off v = s := by
  rw [State.memWrite, regAt_of_lt _ _ (by omega)]
  obtain rfl | rfl | rfl | rfl | rfl | rfl :
    off = 0x040 ∨ off = 0x044 ∨ off = 0x048 ∨ off = 0x04C ∨ off = 0x050 ∨ off = 0x054 := by omega
  all_goals exact ite_self s

/-- Settles O9: each offset writes its register, which keeps the field of v that its line names. -/
theorem hostWriteTable : Obligations.HostWriteTable := by
  unfold Obligations.HostWriteTable
  intro s rest v hb wr t
  have reg (r : Reg) (hr : r.present s.keyMax = true) (ha : r.offset % 4 = 0 ∧ r.offset < 0x1000) :
      wr r.offset = .next (((s.withAgenda rest).writeReg r v).answer .written) :=
    step_write_present r rest v hb hr ha
  have hhash : BitVec.ofNat 2 (v.toNat % 4) = v.extractLsb' 0 2 := (extractLsb'_zero_eq_ofNat v 2).symm
  have hdigits : BitVec.ofNat 4 (v.toNat / 256 % 16) = v.extractLsb' 8 4 := (extractLsb'_eq_ofNat v 8 4).symm
  rw [hhash, hdigits, ← withHi_eq_ofNat, ← withHi_eq_ofNat, ← withLo_eq_ofNat, ← withLo_eq_ofNat,
    ← extractLsb'_zero_eq_ofNat, ← extractLsb'_zero_eq_ofNat]
  exact ⟨reg .status rfl (by decide), reg .cfg rfl (by decide), reg .window rfl (by decide),
    reg .counterHi rfl (by decide), reg .counterLo rfl (by decide), reg .timestep rfl (by decide),
    reg .nowMsHi rfl (by decide), reg .nowMsLo rfl (by decide), reg .keyLen rfl (by decide),
    reg .tokenLen rfl (by decide),
    fun off ha hlo hhi => step_write_ignored s rest v ha (by omega) (memWrite_result _ v ha hlo hhi)⟩

/-- The bytes of TOKEN after a store to its word k (rules R62, R65). -/
theorem storeTokenWord_getElem_toNat (bs : Vector Byte 16) (k : Nat) (v : Word) (j : Nat) (h : j < 16) :
    ((storeTokenWord bs k v)[j]).toNat = if j / 4 = k then v.toNat / 256 ^ (3 - j % 4) % 256 else bs[j].toNat := by
  rw [storeTokenWord_getElem, apply_ite BitVec.toNat, wordByte_toNat_eq_digit]

/-- The bytes of KEY after a store to its word k (rules R62, R65). -/
theorem byteAt_storeWord_toNat (bs : List Byte) (k : Nat) (v : Word) (j : Nat) (h : j < bs.length) :
    (byteAt (storeWord bs k v) j).toNat =
      if j / 4 = k then v.toNat / 256 ^ (3 - j % 4) % 256 else (byteAt bs j).toNat := by
  rw [byteAt_of_lt _ _ (by rwa [storeWord_length]), storeWord_getElem, apply_ite BitVec.toNat, wordByte_toNat_eq_digit,
    byteAt_of_lt _ _ h]

/-- Settles O10: the write stores word k of its buffer, and the store's bytes are those of v at 4k .. 4k+3. -/
theorem hostWriteStoresBufferBytes : Obligations.HostWriteStoresBufferBytes := by
  unfold Obligations.HostWriteStoresBufferBytes
  intro s rest v k hb
  refine ⟨fun hk => ⟨storeTokenWord s.token k v, ?_, fun j => storeTokenWord_getElem_toNat _ _ _ _ j.isLt⟩,
    fun hk hspace => ⟨storeWord s.key k v, ?_, storeWord_length _ _ _, byteAt_storeWord_toNat _ _ _⟩⟩
  · refine (step_write_present (.tokenW k) rest v hb (decide_eq_true hk) (by simp only [Reg.offset]; omega)).trans ?_
    rw [writeReg_tokenW]
    rfl
  · refine (step_write_present (.keyW k) rest v hb (decide_eq_true hk) (by simp only [Reg.offset]; omega)).trans ?_
    rw [writeReg_keyW]
    rfl

end Sys2Proof.Machine
end

section
/-! PROOFS. From command issue to completion (rules R63, R72, R85, R221): host accesses leave a BUSY block's registers
alone, and the engine's turn completes it. -/

namespace Sys2Proof.Machine

/-- A table word that stands for a command is a 32-bit word that decodes to it. -/
theorem decodeTableWord_eq_some_iff (nbits w : Nat) (i : Instr) :
    decodeTableWord nbits w = some i ↔ ∃ v, tableWord nbits w = some v ∧ decode v = .ok i := by
  rw [decodeTableWord]
  cases tableWord nbits w with
  | none => simp
  | some v => cases h : decode v <;> simp [h]

/-- While BUSY with a command's word in CMD, the engine's turn is that command (rule R85). -/
theorem engineTurn_of_decode {s : State} {i : Instr} (hb : s.busy = true) (hd : decode s.cmd = .ok i) :
    engineTurn s = exec i s := by
  simp [engineTurn, completionStep, hb, hd]

/-- Settles O5: `withFetchWord` issues the word and puts the engine's turn first. -/
theorem fetchedWordRunsNext : Obligations.FetchedWordRunsNext := by
  unfold Obligations.FetchedWordRunsNext
  intro s nbits w i h
  obtain ⟨v, hv, hd⟩ := (decodeTableWord_eq_some_iff nbits w i).mp h
  have hfetch : s.withFetchWord nbits w = (s.issue v).withAgenda (.engine :: s.agenda) := by
    simp only [State.withFetchWord, hv, State.aboutToRun]
  rw [hfetch, step_of_event _ .engine s.agenda rfl, ← eq_encode_of_decode hd]
  exact engineTurn_of_decode rfl hd

/-- While BUSY the engine's turn completes the command, whatever word is in CMD, and keeps CMD (rules R85, R181). -/
theorem engineTurn_completes {s : State} (hb : s.busy = true) :
    ∃ t, engineTurn s = .next t ∧ t.busy = false ∧ t.done = true ∧ t.cmd = s.cmd := by
  cases hd : decode s.cmd with
  | ok i =>
    obtain ⟨t, ht, hbusy, hdone, hcmd, -⟩ := exec_finishes i s
    exact ⟨t, (engineTurn_of_decode hb hd).trans ht, hbusy, hdone, hcmd⟩
  | error e =>
    exact ⟨s.raise .illegalCommand, by simp [engineTurn, completionStep, hb, hd, execIllegal], rfl, rfl, rfl⟩

/-- While BUSY a host write, delivered or refused, changes only the last answer (rules R62, R67). -/
theorem hostWrite_of_busy (s : State) (width off : Nat) (v : Word) (hb : s.busy = true) :
    ∃ r, s.hostWrite width off v = s.answer r := by
  obtain h | ⟨-, -, -, h⟩ := hostWrite_cases s width off v
  · exact ⟨_, h⟩
  · exact ⟨_, by rw [h, memWrite_of_busy s off v hb]⟩

/-- While BUSY a host access changes only the last answer (rules R61, R62, R72). -/
theorem step_hostAccess_of_busy {s : State} {e : Event} {rest : List Event} (hb : s.busy = true)
    (ha : s.agenda = e :: rest) (hreset : e ≠ .reset) (hengine : e ≠ .engine) :
    ∃ r, step s = .next { s with agenda := rest, reply := r } := by
  rw [step_of_event s e rest ha]
  cases e with
  | reset => exact absurd rfl hreset
  | engine => exact absurd rfl hengine
  | read width off =>
    rw [takeEvent, State.hostRead]
    split <;> exact ⟨_, rfl⟩
  | write width off v =>
    obtain ⟨r, hr⟩ := hostWrite_of_busy (s.withAgenda rest) width off v hb
    exact ⟨r, congrArg _ hr⟩

/-- While BUSY with no reset to come, the engine's turn is reached within the agenda, with every register as it was. -/
theorem runsTo_engineNext_of_busy (s : State) (hb : s.busy = true) (hreset : Event.reset ∉ s.agenda) :
    ∃ k u, k ≤ s.agenda.length ∧ s.RunsTo k u ∧ u = { s with agenda := u.agenda, reply := u.reply } ∧ u.EngineNext := by
  induction ha : s.agenda generalizing s with
  | nil => exact ⟨0, s, le_rfl, (RunsTo_zero s s).mpr rfl, rfl, .inl ha⟩
  | cons e rest ih =>
    rw [ha, List.mem_cons, not_or] at hreset
    obtain ⟨he, hrest⟩ := hreset
    by_cases hengine : e = .engine
    · exact ⟨0, s, Nat.zero_le _, (RunsTo_zero s s).mpr rfl, rfl, .inr (by rw [ha, hengine, List.head?_cons])⟩
    · obtain ⟨r, hstep⟩ := step_hostAccess_of_busy hb ha (Ne.symm he) hengine
      obtain ⟨k, u, hk, hrun, hu, hnext⟩ := ih { s with agenda := rest, reply := r } hb hrest rfl
      exact ⟨k + 1, u, Nat.succ_le_succ hk, RunsTo_succ hstep hrun, hu, hnext⟩

/-- Settles O7: the run through the host accesses ends at the engine's turn, still BUSY, and that turn completes. -/
theorem issuedCommandCompletesOnItsOperands : Obligations.IssuedCommandCompletesOnItsOperands := by
  unfold Obligations.IssuedCommandCompletesOnItsOperands
  intro s hb hreset
  obtain ⟨k, u, hk, hrun, hu, hnext⟩ := runsTo_engineNext_of_busy s hb hreset
  have hbusy : u.busy = true := by rw [hu]; exact hb
  have hcmd : u.cmd = s.cmd := by rw [hu]
  obtain ⟨t, ht, htbusy, htdone, htcmd⟩ := engineTurn_completes (s := u.withAgenda u.agenda.tail) hbusy
  have hlast : u.RunsTo 1 t := RunsTo_succ ((step_of_engineNext u hnext).trans ht) ((RunsTo_zero t t).mpr rfl)
  exact ⟨k, u, hk, hrun, hu, hnext, t, RunsTo_trans hrun hlast, htbusy, htdone, htcmd.trans hcmd⟩

end Sys2Proof.Machine
end

section
/-! PROOFS. Command words (rules R80, R81, R82): the fields of a word as numbers, and what the decoder answers by
them. -/

namespace Sys2Proof

theorem zeroField_eq_zero_iff (w : Word) : zeroField w = 0 ↔ w.toNat / 16 = 0 := by
  have hw := w.isLt
  rw [← BitVec.toNat_inj, zeroField, BitVec.extractLsb'_toNat, Nat.shiftRight_eq_div_pow, BitVec.ofNat_eq_ofNat,
    BitVec.toNat_zero]
  omega

/-- The encoder's words are the table's, so each decodes to its row (rule R81). -/
theorem decode_encode (i : Instr) : decode (encode i) = .ok i := by cases i <;> rfl

/-- The decoder rejects a word for its ZERO field exactly when that field is not 0, whatever OP is (rule R82). -/
theorem decode_eq_zeroFieldSet_iff (w : Word) : decode w = .error .zeroFieldSet ↔ w.toNat / 16 ≠ 0 := by
  rw [ne_eq, ← zeroField_eq_zero_iff]
  by_cases hz : zeroField w = 0
  · refine iff_of_false ?_ (not_not.mpr hz)
    rw [decode, if_neg (not_not.mpr hz)]
    split_ifs <;> nofun
  · exact iff_of_true (if_pos hz) hz

theorem encode_wf (i : Instr) : CommandWord.wf (encode i) = true := by cases i <;> decide

/-- The well-formed words are the five command words (rules R81, R82). -/
theorem exists_encode_of_wf {w : Word} (h : CommandWord.wf w = true) : ∃ i, w = encode i := by
  simp only [CommandWord.wf, CommandWord.zeroFieldClear, CommandWord.opAssigned, Bool.and_eq_true,
    decide_eq_true_eq] at h
  have of_toNat (i : Instr) (hi : w.toNat = (encode i).toNat) : ∃ i, w = encode i := ⟨i, BitVec.eq_of_toNat_eq hi⟩
  obtain hw | hw | hw | hw | hw : w.toNat = 1 ∨ w.toNat = 2 ∨ w.toNat = 3 ∨ w.toNat = 4 ∨ w.toNat = 5 := by omega
  · exact of_toNat .gen hw
  · exact of_toNat .verify hw
  · exact of_toNat .tgen hw
  · exact of_toNat .tverify hw
  · exact of_toNat .zeroize hw

/-- A word decodes to a command exactly when it passes both checks (rule R82). -/
theorem exists_decode_eq_ok_iff_wf (w : Word) : (∃ i, decode w = .ok i) ↔ CommandWord.wf w = true := by
  constructor
  · rintro ⟨i, hi⟩
    rw [Machine.eq_encode_of_decode hi]
    exact encode_wf i
  · intro h
    obtain ⟨i, rfl⟩ := exists_encode_of_wf h
    exact ⟨i, decode_encode i⟩

/-- A word with ZERO = 0 that fails the check on OP is rejected for its OP (rule R82). -/
theorem decode_eq_unassignedOp {w : Word} (hz : w.toNat / 16 = 0) (hop : CommandWord.opAssigned w = false) :
    decode w = .error .unassignedOp := by
  cases hd : decode w with
  | ok i =>
    have hwf := (exists_decode_eq_ok_iff_wf w).mp ⟨i, hd⟩
    rw [CommandWord.wf, hop, Bool.and_false] at hwf
    cases hwf
  | error e =>
    cases e with
    | zeroFieldSet => exact absurd hz ((decode_eq_zeroFieldSet_iff w).mp hd)
    | unassignedOp => rfl

/-- Settles O1: the table's words by evaluation, and both directions of the round trip. -/
theorem decodeEncodeAgree : Obligations.DecodeEncodeAgree := by
  unfold Obligations.DecodeEncodeAgree
  exact ⟨rfl, rfl, rfl, rfl, rfl, fun i _ => decode_encode i, fun _ _ => Machine.eq_encode_of_decode⟩

/-- Settles O2: each of the nine words by evaluation. -/
theorem tableWordsDecode : Obligations.TableWordsDecode := by
  unfold Obligations.TableWordsDecode
  decide

/-- Settles O3: the ZERO field is checked first, and the five OP codes are all that is left. -/
theorem illegalWordsRejectedByName : Obligations.IllegalWordsRejectedByName := by
  unfold Obligations.IllegalWordsRejectedByName
  refine fun w => ⟨(decode_eq_zeroFieldSet_iff w).mpr, fun hz hop => decode_eq_unassignedOp hz ?_,
    exists_decode_eq_ok_iff_wf w⟩
  simp only [CommandWord.opAssigned, decide_eq_false_iff_not]
  omega

end Sys2Proof
end

section
/-! PROOFS. Every step goes on (rules R85, R193, R204, R221), and what it is at the engine's turn. -/

namespace Sys2Proof.Machine

/-- A step's cases all answer a next state (rules R193, R221). -/
theorem exists_step_eq_next (s : State) : ∃ t, step s = .next t := by
  obtain ⟨u, -, -, ⟨-, ⟨i, -, h⟩ | ⟨-, h⟩⟩ | ⟨-, h⟩⟩ | ⟨e, rest, -, ⟨_, _, -, h⟩ | ⟨_, _, _, -, h⟩ | ⟨-, h⟩⟩ :=
    step_cases s
  · obtain ⟨t, ht, -⟩ := exec_finishes i u
    exact ⟨t, h.trans ht⟩
  all_goals exact ⟨_, h⟩

/-- Settles O6: the cases of a step and of a command's completion are all next states. -/
theorem everyStepGoesOn : Obligations.EveryStepGoesOn := by
  unfold Obligations.EveryStepGoesOn
  refine ⟨exists_step_eq_next, fun i s => ?_⟩
  obtain ⟨t, ht, -⟩ := exec_finishes i s
  exact ⟨t, ht⟩

/-- While BUSY with an illegal word in CMD, the engine's turn is error entry (rule R181). -/
theorem engineTurn_of_decode_error {s : State} {e : IllegalWord} (hb : s.busy = true) (hd : decode s.cmd = .error e) :
    engineTurn s = .next (s.raise .illegalCommand) := by
  simp [engineTurn, completionStep, hb, hd, execIllegal]

/-- With BUSY = 0 the engine has no step (rules R85, R204). -/
theorem engineTurn_of_idle {s : State} (hb : s.busy = false) : engineTurn s = .next s := by simp [engineTurn, hb]

/-- Settles O4: the step is the engine's turn on the state with that turn taken off, and each clause is one case of it. -/
theorem stepRunsTheLatchedCommand : Obligations.StepRunsTheLatchedCommand := by
  unfold Obligations.StepRunsTheLatchedCommand
  intro s hnext
  rw [step_of_engineNext s hnext]
  refine ⟨fun hb _ hd => engineTurn_of_decode hb hd, fun hb _ hd => engineTurn_of_decode_error hb hd, fun hb => ?_,
    fun hb => engineTurn_of_idle hb⟩
  obtain ⟨t, ht, hbusy, hdone, -⟩ := engineTurn_completes (s := s.withAgenda s.agenda.tail) hb
  exact ⟨t, ht, hbusy, hdone⟩

end Sys2Proof.Machine
end

section
/-! PROOFS. Runs through a list of host accesses (rules R71, R89): what a list does to the registers, whatever comes after
it on the agenda, one lemma per kind of event. -/

namespace Sys2Proof.Machine

/-- The events, whatever stands after them on the agenda, take the registers and the last answer of s to those of t. -/
def State.Passes (s : State) (events : List Event) (t : State) : Prop :=
  ∀ rest, (s.withAgenda (events ++ rest)).RunsTo events.length (t.withAgenda rest)

theorem passes_nil (s : State) : s.Passes [] s := fun _ => (RunsTo_zero _ _).mpr rfl

/-- One event, by the step that takes it. -/
theorem passes_event {s t : State} {e : Event}
    (h : ∀ rest, step (s.withAgenda (e :: rest)) = .next (t.withAgenda rest)) : s.Passes [e] t :=
  fun rest => RunsTo_succ (h rest) ((RunsTo_zero _ _).mpr rfl)

/-- Lists of events end to end. -/
theorem passes_append {s t u : State} {es fs : List Event} (h : s.Passes es t) (h' : t.Passes fs u) :
    s.Passes (es ++ fs) u := by
  intro rest
  rw [List.append_assoc, List.length_append]
  exact RunsTo_trans (h (fs ++ rest)) (h' rest)

theorem passes_cons {s t u : State} {e : Event} {es : List Event} (h : s.Passes [e] t) (h' : t.Passes es u) :
    s.Passes (e :: es) u := passes_append h h'

/-- Every register of a legal block stands at an aligned offset of the space (rules R11, R20, R60). -/
theorem present_offset {keyMax : Nat} {r : Reg} (hk : keyMax ≤ 3840) (hr : r.present keyMax = true) :
    r.offset % 4 = 0 ∧ r.offset < 0x1000 := by
  cases r
  case tokenW k | codeW k | keyW k =>
    simp only [Reg.present, decide_eq_true_eq] at hr
    simp only [Reg.offset]
    omega
  all_goals exact ⟨rfl, by decide⟩

/-- No register write reads the agenda. -/
theorem writeReg_withAgenda (s : State) (r : Reg) (v : Word) (rest : List Event) :
    (s.withAgenda rest).writeReg r v = (s.writeReg r v).withAgenda rest := by cases r <;> rfl

/-- A host write on an idle block is accepted (rule R62). -/
theorem passes_write {s : State} (r : Reg) (v : Word) (hb : s.busy = false) (hk : s.key.length ≤ 3840)
    (hr : r.present s.key.length = true) : s.Passes [writeEvent r v] ((s.writeReg r v).answer .written) := by
  refine passes_event fun rest => ?_
  rw [step_write_reg (s.withAgenda (writeEvent r v :: rest)) rest r v rfl hb hr (present_offset hk hr)]
  exact congrArg (fun t => Host.Outcome.next (t.answer .written)) (writeReg_withAgenda s r v rest)

/-- Host reads change the last answer only (rule R61). -/
theorem passes_reads {s : State} (regs : List Reg) (hk : s.key.length ≤ 3840)
    (hregs : ∀ r ∈ regs, r.present s.key.length = true) :
    ∃ reply, s.Passes (regs.map readEvent) (s.answer reply) := by
  induction regs generalizing s with
  | nil => exact ⟨s.reply, passes_nil s⟩
  | cons r regs ih =>
    obtain ⟨hr, hregs⟩ := List.forall_mem_cons.mp hregs
    have hread : s.Passes [readEvent r] (s.answer (.data (s.memRead r.offset))) :=
      have ⟨ha, hlt⟩ := present_offset hk hr
      passes_event fun rest => step_read_word s rest ha hlt
    obtain ⟨reply, hrest⟩ := ih (s := s.answer (.data (s.memRead r.offset))) hk hregs
    exact ⟨reply, passes_cons hread hrest⟩

/-! ### The engine's turn -/

/-- A validating command reads no agenda, if its effect reads none. -/
theorem withInputs_withAgenda {cmd : Instr} {s t : State} {f f' : Inputs → State} (rest : List Event)
    (hf : ∀ x, f' x = (f x).withAgenda rest) (h : withInputs cmd s f = .next t) :
    withInputs cmd (s.withAgenda rest) f' = .next (t.withAgenda rest) := by
  have hv : validate cmd (s.withAgenda rest) = validate cmd s := rfl
  cases hx : validate cmd s with
  | error e =>
    obtain rfl := Host.Outcome.next.inj ((withInputs_of_error f hx).symm.trans h)
    exact withInputs_of_error f' (hv.trans hx)
  | ok x =>
    obtain rfl := Host.Outcome.next.inj ((withInputs_of_ok f hx).symm.trans h)
    rw [withInputs_of_ok f' (hv.trans hx), hf]
    rfl

/-- No command reads the agenda (rules R83, R85). -/
theorem exec_withAgenda {i : Instr} {s t : State} (rest : List Event) (h : exec i s = .next t) :
    exec i (s.withAgenda rest) = .next (t.withAgenda rest) := by
  cases i with
  | gen => exact withInputs_withAgenda rest (fun _ => rfl) h
  | verify =>
    refine withInputs_withAgenda rest (fun x => ?_) h
    have hsearch : windowSearch (s.withAgenda rest) x = windowSearch s x := rfl
    rw [hsearch]
    cases windowSearch s x <;> rfl
  | tgen => exact withInputs_withAgenda rest (fun _ => rfl) h
  | tverify => exact withInputs_withAgenda rest (fun _ => rfl) h
  | zeroize =>
    obtain rfl := Host.Outcome.next.inj h
    rfl

/-- While BUSY with a command's word in CMD, the engine's turn is that command's completion (rule R85). -/
theorem passes_engine {i : Instr} {s t : State} (hb : s.busy = true) (hcmd : s.cmd = encode i)
    (h : exec i s = .next t) : s.Passes [.engine] t := by
  refine passes_event fun rest => ?_
  have hd : decode (s.withAgenda rest).cmd = .ok i := by rw [State.withAgenda_cmd, hcmd, decode_encode]
  calc step (s.withAgenda (.engine :: rest))
      _ = engineTurn (s.withAgenda rest) := step_of_event _ .engine rest rfl
      _ = exec i (s.withAgenda rest) := engineTurn_of_decode hb hd
      _ = .next (t.withAgenda rest) := exec_withAgenda rest h

/-- A command line, its engine's turn and any reads after it: the command completes and the registers stay as it left
them (rules R61, R63, R85). -/
theorem passes_command {i : Instr} {s t : State} (regs : List Reg) (hb : s.busy = false) (hk : s.key.length ≤ 3840)
    (h : exec i ((s.issue (encode i)).answer .written) = .next t)
    (hregs : ∀ r ∈ regs, r.present s.key.length = true) :
    ∃ reply, s.Passes (writeEvent .cmd (encode i) :: .engine :: regs.map readEvent) (t.answer reply) := by
  have hkey : t.key.length = s.key.length := (exec_key_length h).trans rfl
  obtain ⟨reply, hreads⟩ := passes_reads (s := t) regs (hkey ▸ hk) (hkey ▸ hregs)
  exact ⟨reply, passes_cons (passes_write .cmd _ hb hk rfl) (passes_cons (passes_engine rfl rfl h) hreads)⟩

end Sys2Proof.Machine
end

section
/-! PROOFS. Loading a string into KEY or TOKEN word by word (rules R62, R65, R90). -/

namespace Sys2Proof.Machine

/-! ### The padded string and its words -/

theorem pad4_length (bytes : List Byte) : (pad4 bytes).length = 4 * ((bytes.length + 3) / 4) := by
  rw [pad4, List.length_append, rep_length]
  omega

/-- The string itself stands first in any buffer that its padded form starts. -/
theorem pad4_append_take (bytes tail : List Byte) : (pad4 bytes ++ tail).take bytes.length = bytes := by
  rw [pad4, List.append_assoc, List.take_left]

/-- Byte j of a word of a buffer is the buffer's byte there (rule R65). -/
theorem wordByte_bufferWord (bs : List Byte) (k j : Nat) (hj : j < 4) :
    wordByte (bufferWord bs k) j = byteAt bs (4 * k + j) := by
  have h₀ := (byteAt bs (4 * k)).isLt
  have h₁ := (byteAt bs (4 * k + 1)).isLt
  have h₂ := (byteAt bs (4 * k + 2)).isLt
  have h₃ := (byteAt bs (4 * k + 3)).isLt
  apply BitVec.eq_of_toNat_eq
  rw [wordByte_toNat, bufferWord_toNat]
  simp only [intBe, List.foldl]
  obtain rfl | rfl | rfl | rfl : j = 0 ∨ j = 1 ∨ j = 2 ∨ j = 3 := by omega
  · change _ = (byteAt bs (4 * k)).toNat
    omega
  all_goals omega

/-- A buffer with its first n words taken from a string. -/
def loadWords (bytes old : List Byte) (n : Nat) : List Byte := bytes.take (4 * n) ++ old.drop (4 * n)

theorem loadWords_zero (bytes old : List Byte) : loadWords bytes old 0 = old := by simp [loadWords]

theorem loadWords_length {bytes old : List Byte} {n : Nat} (hn : 4 * n ≤ bytes.length)
    (hle : bytes.length ≤ old.length) : (loadWords bytes old n).length = old.length := by
  simp only [loadWords, List.length_append, List.length_take, List.length_drop]
  omega

theorem loadWords_getElem {bytes old : List Byte} {n j : Nat} (hn : 4 * n ≤ bytes.length)
    (hle : bytes.length ≤ old.length) (hj : j < (loadWords bytes old n).length) :
    (loadWords bytes old n)[j] = if j < 4 * n then byteAt bytes j else byteAt old j := by
  have hlen := loadWords_length hn hle
  have htake : (bytes.take (4 * n)).length = 4 * n := List.length_take_of_le hn
  simp only [loadWords]
  split
  · next hlt => rw [List.getElem_append_left (by omega), List.getElem_take, byteAt_of_lt]
  · next hge =>
    have hpos : 4 * n + (j - 4 * n) = j := by omega
    rw [List.getElem_append_right (by omega), List.getElem_drop, byteAt_of_lt _ _ (by omega)]
    simp only [htake, hpos]

/-- Storing the next word of the string loads one word more. -/
theorem storeWord_loadWords {bytes old : List Byte} {n : Nat} (hn : 4 * (n + 1) ≤ bytes.length)
    (hle : bytes.length ≤ old.length) :
    storeWord (loadWords bytes old n) n (bufferWord bytes n) = loadWords bytes old (n + 1) := by
  have hn' : 4 * n ≤ bytes.length := by omega
  apply List.ext_getElem
  · rw [storeWord_length, loadWords_length hn' hle, loadWords_length hn hle]
  intro j _ _
  rw [storeWord_getElem, loadWords_getElem hn hle, loadWords_getElem hn' hle]
  by_cases hw : j / 4 = n
  · rw [if_pos hw, if_pos (by omega), wordByte_bufferWord _ _ _ (by omega), show 4 * n + j % 4 = j by omega]
  · have hsame : j < 4 * n ↔ j < 4 * (n + 1) := by omega
    simp only [hw, hsame, if_false]

theorem loadWords_all {bytes old : List Byte} {n : Nat} (hn : bytes.length = 4 * n) :
    loadWords bytes old n = bytes ++ old.drop bytes.length := by
  rw [loadWords, ← hn, List.take_length]

/-! ### The writes of a buffer -/

/-- The writes of the first n words of a string, given what one such write does to the buffer that `load` holds. -/
theorem passes_words {reg : Nat → Reg} {load : List Byte → BusReply → State} {bytes old : List Byte} {n : Nat}
    (reply : BusReply) (hn : 4 * n ≤ bytes.length) (hle : bytes.length ≤ old.length)
    (hwrite : ∀ k bs r v, k < n → bs.length = old.length →
      (load bs r).Passes [writeEvent (reg k) v] (load (storeWord bs k v) .written)) :
    ∃ reply', (load old reply).Passes ((List.range n).map fun k => writeEvent (reg k) (bufferWord bytes k))
      (load (loadWords bytes old n) reply') := by
  induction n with
  | zero => exact ⟨reply, by rw [loadWords_zero]; exact passes_nil _⟩
  | succ n ih =>
    obtain ⟨reply', hfirst⟩ := ih (by omega) fun k bs r v hk => hwrite k bs r v (by omega)
    have hlast := hwrite n _ reply' (bufferWord bytes n) n.lt_succ_self (loadWords_length (n := n) (by omega) hle)
    rw [storeWord_loadWords hn hle] at hlast
    rw [List.range_succ, List.map_append]
    exact ⟨.written, passes_append hfirst hlast⟩

/-- A whole string, padded, into a buffer it fits in (rule R90). -/
theorem passes_bufferWrites {reg : Nat → Reg} {load : List Byte → BusReply → State} {bytes old : List Byte}
    (reply : BusReply) (hmod : old.length % 4 = 0) (hle : bytes.length ≤ old.length)
    (hwrite : ∀ k bs r v, 4 * k < old.length → bs.length = old.length →
      (load bs r).Passes [writeEvent (reg k) v] (load (storeWord bs k v) .written)) :
    ∃ reply', (load old reply).Passes (bufferWrites reg bytes)
      (load (pad4 bytes ++ old.drop (pad4 bytes).length) reply') := by
  have hpad := pad4_length bytes
  rw [← loadWords_all hpad]
  exact passes_words reply hpad.ge (by omega) fun k bs r v hk => hwrite k bs r v (by omega)

end Sys2Proof.Machine
end

section
/-! PROOFS. The host's lines on an idle block (rules R89, R90): what each leaves in the operand registers. -/

namespace Sys2Proof.Machine

/-- A register of n bits keeps the low bits of the word written (rule R62). -/
theorem extractLsb'_ofNat {n : Nat} (m : Nat) (hn : n ≤ 32) : (BitVec.ofNat 32 m).extractLsb' 0 n = BitVec.ofNat n m := by
  apply BitVec.eq_of_toNat_eq
  rw [extractLsb'_zero_eq_ofNat, BitVec.toNat_ofNat, BitVec.toNat_ofNat, BitVec.toNat_ofNat, Nat.mod_mod,
    Nat.mod_mod_of_dvd _ (Nat.pow_dvd_pow 2 hn)]

/-! ### TOKEN as a list of bytes -/

/-- The TOKEN buffer of a list of 16 bytes. -/
def tokenBuffer (bytes : List Byte) : Vector Byte 16 := Vector.ofFn fun j => byteAt bytes j

theorem tokenBuffer_getElem (bytes : List Byte) (j : Nat) (h : j < 16) : (tokenBuffer bytes)[j] = byteAt bytes j := by
  simp [tokenBuffer]

theorem tokenBuffer_toList {bytes : List Byte} (h : bytes.length = 16) : (tokenBuffer bytes).toList = bytes := by
  apply List.ext_getElem
  · rw [Vector.length_toList, h]
  · intro j _ hj
    rw [Vector.getElem_toList, tokenBuffer_getElem, byteAt_of_lt _ _ hj]

theorem tokenBuffer_of_toList (token : Vector Byte 16) : tokenBuffer token.toList = token :=
  Vector.toList_inj.mp (tokenBuffer_toList (Vector.length_toList ..))

/-- Storing a word is the same in the buffer and in its list. -/
theorem tokenBuffer_storeWord {bytes : List Byte} (h : bytes.length = 16) (k : Nat) (v : Word) :
    tokenBuffer (storeWord bytes k v) = storeTokenWord (tokenBuffer bytes) k v := by
  ext j hj : 1
  have hbyte (bs : List Byte) (hbs : bs.length = 16) : (tokenBuffer bs)[j] = bs[j] := by
    rw [tokenBuffer_getElem, byteAt_of_lt _ _ (by omega)]
  rw [storeTokenWord_getElem, hbyte _ ((storeWord_length ..).trans h), storeWord_getElem, hbyte _ h]

/-- The token equals a code exactly when its first TOKEN_LEN bytes are the code (rule R107). -/
theorem tokenEqual_iff_take {n : Nat} {token : Vector Byte 16} (hn : n ≤ 16) (code : List Byte) :
    tokenEqual n token code = true ↔ token.toList.take n = code := by
  have hlen : (token.toList.take n).length = n := by rw [List.length_take, Vector.length_toList]; omega
  rw [tokenEqual_iff]
  constructor
  · rintro ⟨rfl, hbytes⟩
    refine List.ext_getElem? fun j => ?_
    rw [List.getElem?_take]
    split
    · next hj => exact hbytes j hj
    · next hj => rw [List.getElem?_eq_none (by omega)]
  · rintro rfl
    exact ⟨hlen.symm, fun j hj => (List.getElem?_take_of_lt (by omega)).symm⟩

/-! ### One line each -/

/-- s with a secret in KEY, its padding and KEY's old bytes after it, as SETKEY leaves it (rule R90). -/
def State.withSecret (s : State) (bytes : List Byte) : State :=
  { s with
    key := pad4 bytes ++ s.key.drop (pad4 bytes).length
    keyLen := BitVec.ofNat 16 bytes.length
    reply := .written }

/-- s with a token in TOKEN, its padding and TOKEN's old bytes after it, as SETTOKEN leaves it (rule R90). -/
def State.withToken (s : State) (bytes : List Byte) : State :=
  { s with
    token := tokenBuffer (pad4 bytes ++ s.token.toList.drop (pad4 bytes).length)
    tokenLen := BitVec.ofNat 8 bytes.length
    reply := .written }

theorem withSecret_key_length {s : State} {bytes : List Byte} (hmod : s.key.length % 4 = 0)
    (hle : bytes.length ≤ s.key.length) : (s.withSecret bytes).key.length = s.key.length := by
  have hpad := pad4_length bytes
  simp only [State.withSecret, List.length_append, List.length_drop]
  omega

section
variable {s : State} (hb : s.busy = false) (hk : Config.KeyMaxLegal s.key.length)
include hb hk

/-- SETKEY: the padded secret stands at the start of KEY, its length in KEY_LEN (rule R90). -/
theorem passes_setKey {bytes : List Byte} (hle : bytes.length ≤ s.key.length) :
    s.Passes (HostOp.setKey bytes).expand (s.withSecret bytes) := by
  obtain ⟨hmod, -, hmax⟩ := hk
  obtain ⟨reply, hbytes⟩ :=
    passes_bufferWrites (reg := .keyW) (load := fun bs r => { s with key := bs, reply := r }) s.reply hmod hle
      fun k bs r v hk hlen => passes_write (.keyW k) v hb (hlen.trans_le hmax) (decide_eq_true (hk.trans_eq hlen.symm))
  have hlen : (s.withSecret bytes).key.length ≤ 3840 := (withSecret_key_length hmod hle).trans_le hmax
  rw [State.withSecret, ← extractLsb'_ofNat (n := 16) bytes.length (by decide)]
  exact passes_append hbytes (passes_write .keyLen _ hb hlen rfl)

/-- SETTOKEN: the padded token stands at the start of TOKEN, its length in TOKEN_LEN (rule R90). -/
theorem passes_setToken {bytes : List Byte} (hle : bytes.length ≤ 16) :
    s.Passes (HostOp.setToken bytes).expand (s.withToken bytes) := by
  obtain ⟨-, -, hmax⟩ := hk
  have htoken : s.token.toList.length = 16 := Vector.length_toList ..
  obtain ⟨reply, hbytes⟩ :=
    passes_bufferWrites (reg := .tokenW) (load := fun bs r => { s with token := tokenBuffer bs, reply := r })
      (bytes := bytes) s.reply (by omega) (hle.trans_eq htoken.symm) fun k bs r v hk hlen => by
        rw [tokenBuffer_storeWord (hlen.trans htoken)]
        have hr : (Reg.tokenW k).present s.key.length = true := decide_eq_true (by omega)
        have hstore := passes_write (s := { s with token := tokenBuffer bs, reply := r }) (.tokenW k) v hb hmax hr
        rwa [writeReg_tokenW] at hstore
  rw [tokenBuffer_of_toList] at hbytes
  rw [State.withToken, ← extractLsb'_ofNat (n := 8) bytes.length (by decide)]
  exact passes_append hbytes (passes_write .tokenLen _ hb hmax rfl)

/-- SETCOUNTER: both words together are the 64-bit counter (rules R66, R90). -/
theorem passes_setCounter (n : Int) :
    s.Passes (HostOp.setCounter n).expand { s with counter := BitVec.ofInt 64 n, reply := .written } := by
  obtain ⟨-, -, hmax⟩ := hk
  have hhi := passes_write .counterHi (hiWord (BitVec.ofInt 64 n)) hb hmax rfl
  have hlo := passes_write (s := (s.writeReg .counterHi (hiWord (BitVec.ofInt 64 n))).answer .written) .counterLo
    (loWord (BitVec.ofInt 64 n)) hb hmax rfl
  rw [writeReg_counterLo, writeReg_counterHi, State.answer_counter, withLo_withHi] at hlo
  exact passes_cons hhi hlo

/-- SETWINDOW (rule R90). -/
theorem passes_setWindow (n : Int) :
    s.Passes (HostOp.setWindow n).expand { s with window := BitVec.ofInt 32 n, reply := .written } :=
  passes_write .window _ hb hk.2.2 rfl

/-- SETCFG: the selector in HASH and the digit count in DIGITS (rules R28, R90). -/
theorem passes_setCfg (h : Hash) {digits : Nat} (hd : digits < 16) :
    s.Passes (HostOp.setCfg h digits).expand
      { s with cfgHash := BitVec.ofNat 2 h.selector, cfgDigits := BitVec.ofNat 4 digits, reply := .written } := by
  have hsel : h.selector < 4 := by cases h <;> decide
  have hval : (BitVec.ofNat 32 (h.selector + digits <<< 8)).toNat = h.selector + 256 * digits := by
    rw [BitVec.toNat_ofNat, Nat.shiftLeft_eq]
    omega
  have hhash : (BitVec.ofNat 32 (h.selector + digits <<< 8)).extractLsb' 0 2 = BitVec.ofNat 2 h.selector := by
    rw [extractLsb'_zero_eq_ofNat, hval]
    congr 1
    omega
  have hdigits : (BitVec.ofNat 32 (h.selector + digits <<< 8)).extractLsb' 8 4 = BitVec.ofNat 4 digits := by
    rw [extractLsb'_eq_ofNat, hval]
    congr 1
    omega
  rw [← hhash, ← hdigits]
  exact passes_write .cfg _ hb hk.2.2 rfl

end

/-- Settles O56: the run of SETKEY's writes, with the secret and its padding in front of KEY's old bytes. -/
theorem setKeyLoadsTheSecret : Obligations.SetKeyLoadsTheSecret := by
  unfold Obligations.SetKeyLoadsTheSecret
  intro s bytes rest hb hk hle events
  refine ⟨(s.withSecret bytes).key, passes_setKey hb hk hle rest, withSecret_key_length hk.1 hle,
    pad4_append_take bytes _, List.take_left, List.drop_left⟩

end Sys2Proof.Machine
end

section
/-! PROOFS. The window search by its candidates (rules R152, R153): what it finds and when it finds nothing. -/

namespace Sys2Proof.Machine

/-- The candidates are exactly the integers from the least to the greatest. -/
theorem lt_searchLo_add_candidateCount_iff {lo hi i : Int} (h : lo ≤ i) : i < lo + candidateCount lo hi ↔ i ≤ hi := by
  rw [candidateCount]
  omega

/-- The search finds the least candidate that is a hit (rule R152). -/
theorem windowSearch_eq_some {s : State} {x : Inputs} {c : Int} (h : windowSearch s x = some c) :
    (searchLo s.counterInt s.windowInt ≤ c ∧ c ≤ searchHi s.counterInt s.windowInt) ∧ candidateHit s x c = true ∧
      ∀ i, searchLo s.counterInt s.windowInt ≤ i → candidateHit s x i = true → c ≤ i := by
  obtain ⟨hlo, hhi, hhit, hleast⟩ := (firstHit_eq_some_iff _ _ _ _).mp h
  refine ⟨⟨hlo, (lt_searchLo_add_candidateCount_iff hlo).mp hhi⟩, hhit, fun i hi hhiti => ?_⟩
  by_contra hlt
  rw [hleast i hi (by omega)] at hhiti
  cases hhiti

/-- The search finds nothing only where no candidate is a hit (rule R152). -/
theorem candidateHit_of_windowSearch_eq_none {s : State} {x : Inputs} (h : windowSearch s x = none) {i : Int}
    (hlo : searchLo s.counterInt s.windowInt ≤ i) (hhi : i ≤ searchHi s.counterInt s.windowInt) :
    candidateHit s x i = false :=
  (firstHit_eq_none_iff _ _ _).mp h i hlo ((lt_searchLo_add_candidateCount_iff hlo).mpr hhi)

/-- COUNTER + DELTA is the match, since DELTA holds the whole distance (rules R151, R153). -/
theorem counterInt_add_delta_of_windowSearch {s : State} {x : Inputs} {c : Int} (hw : 0 ≤ s.windowInt)
    (h : windowSearch s x = some c) : s.counterInt + (BitVec.ofInt 64 (c - s.counterInt)).toInt = c := by
  obtain ⟨⟨hlo, hhi⟩, -, -⟩ := windowSearch_eq_some h
  have hwindow : s.windowInt < 2 ^ 31 := s.window.toInt_lt
  simp only [searchLo, searchHi] at hlo hhi
  rw [BitVec.toInt_ofInt_eq_self (by decide) (by omega) (by omega)]
  omega

end Sys2Proof.Machine
end

section
/-! PROOFS. The source's generate and verify calls as host accesses (rule R90): the arguments stand in the operand
registers when the command is issued, and the completion's results stay through the reads after it. -/

namespace Sys2Proof.Machine

/-- STATUS after a completion without an error: DONE, and MATCHED as the command left it (rules R30, R85). -/
theorem memRead_status_complete {s : State} (he : s.err = 0) :
    s.complete.memRead 0x004 = if s.matched then 0x00000006 else 0x00000002 := by
  rw [show s.complete.memRead 0x004 = s.complete.statusWord from memRead_offset _ .status rfl]
  apply BitVec.eq_of_toNat_eq
  rw [statusWord_toNat, State.complete_busy, State.complete_done, State.complete_matched, State.complete_err, he]
  cases s.matched <;> rfl

/-- A run through a whole agenda. -/
theorem runsTo_of_passes {s t : State} {events : List Event} (h : s.Passes events t) :
    State.RunsTo { s with agenda := events } events.length (t.withAgenda []) := by
  have hrun := h []
  rwa [List.append_nil] at hrun

/-! ### The arguments both calls load -/

/-- An idle block of legal KEY_MAX, and arguments of a call that fit its registers (rules R11, R90, R191). -/
structure State.ReadyFor (s : State) (secret : List Byte) (counter : Int) (digits : Nat) : Prop where
  idle : s.busy = false
  keyMaxLegal : Config.KeyMaxLegal s.key.length
  secret_pos : 1 ≤ secret.length
  secret_fits : secret.length ≤ s.key.length
  counter_ge : -2 ^ 63 ≤ counter
  counter_le : counter ≤ 2 ^ 63 - 1
  digits_pos : 1 ≤ digits
  digits_le : digits ≤ 10

/-- s once SETKEY, SETCOUNTER and SETCFG have loaded the arguments of a call (rule R90). -/
def State.withArguments (s : State) (secret : List Byte) (counter : Int) (h : Hash) (digits : Nat) : State :=
  { s.withSecret secret with
    counter := BitVec.ofInt 64 counter
    cfgHash := BitVec.ofNat 2 h.selector
    cfgDigits := BitVec.ofNat 4 digits }

/-- s with the arguments loaded and command i issued (rules R63, R90). -/
def State.issuedWith (s : State) (i : Instr) (secret : List Byte) (counter : Int) (h : Hash) (digits : Nat) : State :=
  ((s.withArguments secret counter h digits).issue (encode i)).answer .written

theorem hashOfSelector_selector (h : Hash) : hashOfSelector (BitVec.ofNat 2 h.selector) = some h := by cases h <;> rfl

section
variable {s : State} {secret : List Byte} {counter : Int} {digits : Nat} (hr : s.ReadyFor secret counter digits)
  (h : Hash)
include hr

theorem withArguments_key_length : (s.withArguments secret counter h digits).key.length = s.key.length :=
  withSecret_key_length hr.keyMaxLegal.1 hr.secret_fits

theorem withArguments_keyLen : (s.withArguments secret counter h digits).keyLen.toNat = secret.length := by
  obtain ⟨-, -, hmax⟩ := hr.keyMaxLegal
  have hfits := hr.secret_fits
  exact Nat.mod_eq_of_lt (by omega)

theorem withArguments_secret : (s.withArguments secret counter h digits).secret = secret := by
  rw [State.secret, withArguments_keyLen hr]
  exact pad4_append_take secret _

theorem withArguments_digits : (s.withArguments secret counter h digits).digits = digits := by
  have hle := hr.digits_le
  exact Nat.mod_eq_of_lt (by omega)

/-- The arguments are legal operands of every command (rule R191). -/
theorem withArguments_operable : (s.withArguments secret counter h digits).Operable h := by
  have hdigits : (s.withArguments secret counter h digits).cfgDigits.toNat = digits := withArguments_digits hr h
  rw [State.Operable, withArguments_keyLen hr, withArguments_key_length hr, hdigits]
  exact ⟨hr.secret_pos, hr.secret_fits, hashOfSelector_selector h, hr.digits_pos, hr.digits_le⟩

/-- Validation passes on the arguments and hands them on (rule R191). -/
theorem validate_issuedWith {i : Instr} (hown : OwnOperandOk i s) :
    validate i (s.issuedWith i secret counter h digits) = .ok ⟨secret, h, digits⟩ := by
  have hok := validate_of_operable i (withArguments_operable hr h) hown
  rwa [withArguments_secret hr, withArguments_digits hr] at hok

theorem issuedWith_counterInt (i : Instr) : (s.issuedWith i secret counter h digits).counterInt = counter :=
  BitVec.toInt_ofInt_eq_self (by decide) hr.counter_ge (Int.lt_of_le_sub_one hr.counter_le)

/-- Command i, once the arguments are loaded, its engine's turn and the reads of registers below the KEY words. -/
theorem passes_issuedWith {i : Instr} {t : State} (regs : List Reg)
    (hexec : exec i (s.issuedWith i secret counter h digits) = .next t)
    (hregs : ∀ r ∈ regs, r.present s.key.length = true) :
    ∃ reply, (s.withArguments secret counter h digits).Passes
      (writeEvent .cmd (encode i) :: .engine :: regs.map readEvent) (t.answer reply) := by
  have hlen := withArguments_key_length hr h
  obtain ⟨-, -, hmax⟩ := hr.keyMaxLegal
  exact passes_command regs hr.idle (hlen ▸ hmax) hexec (hlen ▸ hregs)

/-! ### generate -/

/-- GEN writes the code of the arguments (rules R108, R150). -/
theorem exec_gen_issuedWith :
    exec .gen (s.issuedWith .gen secret counter h digits) =
      .next ((s.issuedWith .gen secret counter h digits).writeCode digits (otp secret counter h digits)).complete := by
  have hv := validate_issuedWith hr h (i := .gen) ⟨nofun, nofun⟩
  rw [exec, execGen, withInputs_of_ok _ hv, issuedWith_counterInt hr]

/-- The lines of the generate call end with GEN's results (rule R90). -/
theorem passes_generateCall :
    ∃ reply, s.Passes (expandAll (generateCall secret counter h digits))
      (((s.issuedWith .gen secret counter h digits).writeCode digits (otp secret counter h digits)).complete.answer
        reply) := by
  obtain ⟨reply, hcmd⟩ := passes_issuedWith hr h [.status, .codeLen, .codeW 0, .codeW 1, .codeW 2]
    (exec_gen_issuedWith hr h) (by simp [Reg.present])
  have hk : Config.KeyMaxLegal (s.withSecret secret).key.length := withArguments_key_length hr h ▸ hr.keyMaxLegal
  have hdigits : digits < 16 := Nat.lt_of_le_of_lt hr.digits_le (by decide)
  have hkey := passes_setKey hr.idle hr.keyMaxLegal hr.secret_fits
  have hcounter := passes_setCounter (s := s.withSecret secret) hr.idle hk counter
  have hcfg := passes_setCfg (s := { s.withSecret secret with counter := BitVec.ofInt 64 counter }) hr.idle hk h hdigits
  exact ⟨reply, passes_append hkey (passes_append hcounter (passes_append hcfg hcmd))⟩

end

/-- Settles O57: the lines load the arguments, GEN completes with their code, and the reads keep it. -/
theorem generateCallComputesTheCode : Obligations.GenerateCallComputesTheCode := by
  unfold Obligations.GenerateCallComputesTheCode
  intro s secret counter h digits hb hk hpos hfits hge hle hd hd' events
  obtain ⟨reply, hpasses⟩ := passes_generateCall ⟨hb, hk, hpos, hfits, hge, hle, hd, hd'⟩ h
  refine ⟨_, runsTo_of_passes hpasses, rfl, memRead_status_complete rfl, ?_, ?_⟩
  · exact Nat.mod_eq_of_lt (by omega)
  · exact (congrArg _ (codeBuffer_toList _ (by rw [otp_length]; omega))).trans
      (List.take_left' (otp_length secret counter h digits))

/-! ### verify -/

/-- VERIFY on legal operands, where the search finds a counter (rule R151). -/
theorem exec_verify_of_match {s : State} {x : Inputs} {c : Int} (hv : validate .verify s = .ok x)
    (hs : windowSearch s x = some c) :
    exec .verify s = .next (s.writeVerdict true (BitVec.ofInt 64 (c - s.counterInt))).complete := by
  rw [exec, execVerify, withInputs_of_ok _ hv]
  simp only [hs]

/-- VERIFY on legal operands, where the search finds none (rule R151). -/
theorem exec_verify_of_noMatch {s : State} {x : Inputs} (hv : validate .verify s = .ok x)
    (hs : windowSearch s x = none) : exec .verify s = .next (s.writeVerdict false 0).complete := by
  rw [exec, execVerify, withInputs_of_ok _ hv]
  simp only [hs]

/-- s once SETTOKEN and SETWINDOW have loaded what verify takes beyond generate's arguments (rule R90). -/
def State.withQuery (s : State) (token : List Byte) (window : Int) : State :=
  { s.withToken token with window := BitVec.ofInt 32 window }

/-- s with verify's arguments loaded and VERIFY issued. -/
def State.issuedVerify (s : State) (token secret : List Byte) (counter window : Int) (h : Hash) (digits : Nat) :
    State :=
  (s.withQuery token window).issuedWith .verify secret counter h digits

/-- The bytes that a candidate's code is compared with are the token (rules R34, R90, R151). -/
theorem withToken_token_take (s : State) {token : List Byte} (htoken : token.length ≤ 16) :
    (s.withToken token).token.toList.take token.length = token := by
  have hpad := pad4_length token
  have hlen : (pad4 token ++ s.token.toList.drop (pad4 token).length).length = 16 := by
    rw [List.length_append, List.length_drop, Vector.length_toList]
    omega
  rw [State.withToken, tokenBuffer_toList hlen, pad4_append_take]

/-- A candidate is a hit exactly when the call's token is its code (rules R107, R151). -/
theorem candidateHit_issuedVerify_iff (s : State) {token secret : List Byte} {counter window : Int} {h : Hash}
    {digits : Nat} (htoken : token.length ≤ 16) (i : Int) :
    candidateHit (s.issuedVerify token secret counter window h digits) ⟨secret, h, digits⟩ i = true ↔
      token = otp secret i h digits := by
  have hlen : (s.issuedVerify token secret counter window h digits).tokLen = token.length :=
    Nat.mod_eq_of_lt (by omega)
  have htake : (s.issuedVerify token secret counter window h digits).token.toList.take token.length = token :=
    withToken_token_take s htoken
  rw [candidateHit, hlen, tokenEqual_iff_take htoken, htake]

theorem issuedVerify_windowInt (s : State) (token secret : List Byte) (counter : Int) {window : Int} (h : Hash)
    (digits : Nat) (hw : 0 ≤ window) (hw' : window ≤ 2 ^ 31 - 1) :
    (s.issuedVerify token secret counter window h digits).windowInt = window :=
  BitVec.toInt_ofInt_eq_self (by decide) (by omega) (by omega)

section
variable {s : State} {secret : List Byte} {counter : Int} {digits : Nat} (hr : s.ReadyFor secret counter digits)
  (h : Hash)
include hr

theorem readyFor_withQuery (token : List Byte) (window : Int) :
    (s.withQuery token window).ReadyFor secret counter digits :=
  ⟨hr.idle, hr.keyMaxLegal, hr.secret_pos, hr.secret_fits, hr.counter_ge, hr.counter_le, hr.digits_pos, hr.digits_le⟩

/-- The lines of the verify call end with VERIFY's results (rule R90). -/
theorem passes_verifyCall {token : List Byte} {window : Int} {t : State} (htoken : token.length ≤ 16)
    (hexec : exec .verify (s.issuedVerify token secret counter window h digits) = .next t) :
    ∃ reply, s.Passes (expandAll (verifyCall token secret counter window h digits)) (t.answer reply) := by
  obtain ⟨reply, hcmd⟩ := passes_issuedWith (readyFor_withQuery hr token window) h [.status, .status, .deltaHi, .deltaLo]
    hexec (by simp [Reg.present])
  have hk : Config.KeyMaxLegal (s.withSecret secret).key.length := withArguments_key_length hr h ▸ hr.keyMaxLegal
  have hdigits : digits < 16 := Nat.lt_of_le_of_lt hr.digits_le (by decide)
  have hkey := passes_setKey hr.idle hr.keyMaxLegal hr.secret_fits
  have htok := passes_setToken (s := s.withSecret secret) hr.idle hk htoken
  have hcounter := passes_setCounter (s := (s.withSecret secret).withToken token) hr.idle hk counter
  have hwindow := passes_setWindow
    (s := { (s.withSecret secret).withToken token with counter := BitVec.ofInt 64 counter }) hr.idle hk window
  have hcfg := passes_setCfg
    (s := { (s.withSecret secret).withQuery token window with counter := BitVec.ofInt 64 counter }) hr.idle hk h hdigits
  exact ⟨reply, passes_append hkey (passes_append htok (passes_append hcounter (passes_append hwindow
    (passes_append hcfg hcmd))))⟩

/-- Counter i lies in the clamped window of a verify call, and the call's token is its code (rules R152, R153). -/
def VerifyHit (token secret : List Byte) (counter window : Int) (h : Hash) (digits : Nat) (i : Int) : Prop :=
  (searchLo counter window ≤ i ∧ i ≤ searchHi counter window) ∧ token = otp secret i h digits

section
variable {token : List Byte} {window : Int} (hw : 0 ≤ window) (hw' : window ≤ 2 ^ 31 - 1) (htoken : token.length ≤ 16)
include hw hw'

theorem validate_issuedVerify :
    validate .verify (s.issuedVerify token secret counter window h digits) = .ok ⟨secret, h, digits⟩ := by
  have hwindow : (s.withQuery token window).windowInt = window :=
    issuedVerify_windowInt s token secret counter h digits hw hw'
  exact validate_issuedWith (readyFor_withQuery hr token window) h ⟨fun _ => hw.trans_eq hwindow.symm, nofun⟩

include htoken

/-- Where the search over the arguments finds c, STATUS shows the match, COUNTER + DELTA is c, and c is the least hit. -/
theorem verify_match {c : Int}
    (hs : windowSearch (s.issuedVerify token secret counter window h digits) ⟨secret, h, digits⟩ = some c) :
    ∃ t, State.RunsTo { s with agenda := expandAll (verifyCall token secret counter window h digits) }
        (expandAll (verifyCall token secret counter window h digits)).length t ∧ t.agenda = [] ∧
      t.memRead 0x004 = 0x00000006 ∧ counter + t.delta.toInt = c ∧
      VerifyHit token secret counter window h digits c ∧
      ∀ i, VerifyHit token secret counter window h digits i → c ≤ i := by
  have hcounter : (s.issuedVerify token secret counter window h digits).counterInt = counter :=
    issuedWith_counterInt (readyFor_withQuery hr token window) h .verify
  have hwindow := issuedVerify_windowInt s token secret counter h digits hw hw'
  have hexec := exec_verify_of_match (validate_issuedVerify hr h hw hw') hs
  have hdelta := counterInt_add_delta_of_windowSearch (hw.trans_eq hwindow.symm) hs
  obtain ⟨hrange, hhit, hleast⟩ := windowSearch_eq_some hs
  rw [hcounter] at hexec hdelta
  rw [hcounter, hwindow] at hrange hleast
  obtain ⟨reply, hpasses⟩ := passes_verifyCall hr h htoken hexec
  refine ⟨_, runsTo_of_passes hpasses, rfl, memRead_status_complete rfl, hdelta,
    ⟨hrange, (candidateHit_issuedVerify_iff s htoken c).mp hhit⟩, fun i ⟨⟨hlo, _⟩, hcode⟩ => ?_⟩
  exact hleast i hlo ((candidateHit_issuedVerify_iff s htoken i).mpr hcode)

/-- Where the search over the arguments finds nothing, STATUS shows no match, DELTA is 0, and there is no hit. -/
theorem verify_noMatch
    (hs : windowSearch (s.issuedVerify token secret counter window h digits) ⟨secret, h, digits⟩ = none) :
    ∃ t, State.RunsTo { s with agenda := expandAll (verifyCall token secret counter window h digits) }
        (expandAll (verifyCall token secret counter window h digits)).length t ∧ t.agenda = [] ∧
      t.memRead 0x004 = 0x00000002 ∧ t.delta = 0 ∧ ∀ i, ¬VerifyHit token secret counter window h digits i := by
  have hcounter : (s.issuedVerify token secret counter window h digits).counterInt = counter :=
    issuedWith_counterInt (readyFor_withQuery hr token window) h .verify
  have hwindow := issuedVerify_windowInt s token secret counter h digits hw hw'
  have hexec := exec_verify_of_noMatch (validate_issuedVerify hr h hw hw') hs
  obtain ⟨reply, hpasses⟩ := passes_verifyCall hr h htoken hexec
  refine ⟨_, runsTo_of_passes hpasses, rfl, memRead_status_complete rfl, rfl, fun i ⟨⟨hlo, hhi⟩, hcode⟩ => ?_⟩
  rw [← hcounter, ← hwindow] at hlo hhi
  have hmiss := candidateHit_of_windowSearch_eq_none hs hlo hhi
  rw [(candidateHit_issuedVerify_iff s htoken i).mpr hcode] at hmiss
  cases hmiss

end

end

/-- Settles O58: the lines load the arguments, and VERIFY's search over them decides: what it finds is the least hit, and
where it finds nothing there is none. -/
theorem verifyCallAnswersTheWindow : Obligations.VerifyCallAnswersTheWindow := by
  unfold Obligations.VerifyCallAnswersTheWindow
  intro s token secret counter window h digits hb hk hpos hfits htoken hge hle hw hw' hd hd' events candidate hit
  have hr : s.ReadyFor secret counter digits := ⟨hb, hk, hpos, hfits, hge, hle, hd, hd'⟩
  cases hs : windowSearch (s.issuedVerify token secret counter window h digits) ⟨secret, h, digits⟩ with
  | some c =>
    obtain ⟨t, hrun, hagenda, hstatus, rfl, hhit, hleast⟩ := verify_match hr h hw hw' htoken hs
    exact ⟨t, hrun, hagenda, fun _ => ⟨hstatus, hhit, hleast⟩, fun hno => absurd ⟨_, hhit⟩ hno⟩
  | none =>
    obtain ⟨t, hrun, hagenda, hstatus, hdelta, hno⟩ := verify_noMatch hr h hw hw' htoken hs
    exact ⟨t, hrun, hagenda, fun ⟨i, hi⟩ => absurd hi (hno i), fun _ => ⟨hstatus, hdelta⟩⟩

end Sys2Proof.Machine
end

section
/-! PROOFS. The counter bytes and the digest (rules R100, R101): what the eight bytes are, that they determine the counter,
and how long the digest of each hash is. -/

namespace Sys2Proof.Machine

/-- Byte j of an n-byte string is the number's byte of weight 2^(8(n-1-j)) (rule R14). -/
theorem byteAt_beBytes_toNat {n j : Nat} (v : Nat) (h : j < n) :
    (byteAt (beBytes n v) j).toNat = v / 2 ^ (8 * (n - 1 - j)) % 256 := by
  rw [byteAt_of_lt _ _ (by rwa [beBytes_length]), beBytes_getElem, BitVec.toNat_ofNat, Nat.shiftRight_eq_div_pow]

/-- The 64-bit pattern of an integer as a number, `twos_64` (rule R14). -/
theorem ofInt_toNat_eq_emod (c : Int) : ((BitVec.ofInt 64 c).toNat : Int) = c % 2 ^ 64 := by
  rw [BitVec.toNat_ofInt]
  exact Int.toNat_of_nonneg (Int.emod_nonneg _ (by decide))

/-- A counter of the signed 64-bit range is read back from its pattern. -/
theorem ofInt_toInt_of_range {c : Int} (hge : -2 ^ 63 ≤ c) (hle : c ≤ 2 ^ 63 - 1) : (BitVec.ofInt 64 c).toInt = c :=
  BitVec.toInt_ofInt_eq_self (by decide) hge (by omega)

/-- Two counters with the same bytes have the same 64-bit pattern (rule R100). -/
theorem ofInt_eq_of_counterBytes_eq {c c' : Int} (h : counterBytes c = counterBytes c') :
    BitVec.ofInt 64 c = BitVec.ofInt 64 c' := by
  apply BitVec.eq_of_toNat_eq
  rw [← intBe_counterBytes, h, intBe_counterBytes]

/-- Settles O20: the bytes are those of the 64-bit pattern, and the pattern determines a counter in range. -/
theorem counterBytesBigEndian : Obligations.CounterBytesBigEndian := by
  unfold Obligations.CounterBytesBigEndian
  intro c hge hle
  refine ⟨counterBytes_length c, fun j hj => ?_, fun c' hge' hle' h => ?_⟩
  · rw [counterBytes, byteAt_beBytes_toNat _ hj, ← ofInt_toNat_eq_emod]
    push_cast
    rfl
  · rw [← ofInt_toInt_of_range hge hle, ofInt_eq_of_counterBytes_eq h, ofInt_toInt_of_range hge' hle']

/-- Settles O21: the digest is an HMAC by definition, and an HMAC is as long as its hash's digest. -/
theorem digestIsHmacOfCounter : Obligations.DigestIsHmacOfCounter := by
  unfold Obligations.DigestIsHmacOfCounter
  exact fun h key c => ⟨rfl, hmac_length .sha1 key _, hmac_length .sha256 key _, hmac_length .sha512 key _⟩

end Sys2Proof.Machine
end

section
/-! PROOFS. Dynamic truncation (rules R102 to R105): the offset as the last byte mod 16, the value as the word at the offset
without its top bit, and the bounds that follow. -/

namespace Sys2Proof.Machine

theorem byteAt_drop (bs : List Byte) (i j : Nat) : byteAt (bs.drop i) j = byteAt bs (i + j) := by
  simp [byteAt]

/-- The offset is the last byte mod 16 (rule R102). -/
theorem digestOffset_eq_mod (d : List Byte) : digestOffset d = (d.getLast?.getD 0).toNat % 16 := by
  rw [digestOffset, byteAt, List.getD_eq_getElem?_getD, ← List.getLast?_eq_getElem?]
  exact Nat.and_two_pow_sub_one_eq_mod _ 4

theorem digestOffset_le (d : List Byte) : digestOffset d ≤ 15 := by
  rw [digestOffset_eq_mod]
  omega

/-- Appending a byte to a number's bits (rule R103). -/
theorem shiftLeft_or_byte (a : Nat) (b : Byte) : a <<< 8 ||| b.toNat = a * 256 + b.toNat := by
  rw [← Nat.shiftLeft_add_eq_or_of_lt b.isLt, Nat.shiftLeft_eq]

/-- The value is the big-endian word at the offset, its top bit dropped (rule R103). -/
theorem digestValue_eq_bufferWord (d : List Byte) :
    digestValue d = (bufferWord (d.drop (digestOffset d)) 0).toNat % 2 ^ 31 := by
  have hnest (w x y : Nat) (z : Byte) :
      w <<< 24 ||| x <<< 16 ||| y <<< 8 ||| z.toNat = ((w <<< 8 ||| x) <<< 8 ||| y) <<< 8 ||| z.toNat := by
    simp only [Nat.shiftLeft_or_distrib, ← Nat.shiftLeft_add]
  have hmask (b : Byte) : b.toNat &&& 0x7F = b.toNat % 128 := Nat.and_two_pow_sub_one_eq_mod _ 7
  rw [bufferWord_toNat]
  simp only [digestValue, hnest, hmask, shiftLeft_or_byte, byteAt_drop, intBe, List.foldl, Nat.mul_zero, Nat.zero_add,
    Nat.add_zero]
  omega

theorem digestValue_lt (d : List Byte) : digestValue d < 2 ^ 31 := by
  rw [digestValue_eq_bufferWord]
  exact Nat.mod_lt _ (by decide)

/-- In a digest that holds the four bytes at the offset, the value is read from them (rule R103). -/
theorem digestValue_eq_slice {d : List Byte} (h : digestOffset d + 3 < d.length) :
    digestValue d = intBe ((d.drop (digestOffset d)).take 4) % 2 ^ 31 := by
  rw [digestValue_eq_bufferWord, bufferWord_toNat_eq_slice _ _ (by rw [List.length_drop]; omega), Nat.mul_zero,
    List.drop_zero]

/-- A digest of at least 20 bytes holds the four bytes, wherever the offset points (rule R104). -/
theorem digestOffset_add_three_lt {d : List Byte} (h : 20 ≤ d.length) : digestOffset d + 3 < d.length := by
  have := digestOffset_le d
  omega

/-- The last byte gives the offset, and the four bytes there are among the first 19 (rule R104). -/
theorem digestValue_congr {d d' : List Byte} (hd : 20 ≤ d.length) (hd' : 20 ≤ d'.length)
    (htake : d'.take 19 = d.take 19) (hlast : d'.getLast? = d.getLast?) : digestValue d' = digestValue d := by
  have hoffset : digestOffset d' = digestOffset d := by rw [digestOffset_eq_mod, digestOffset_eq_mod, hlast]
  have hslice (bs : List Byte) : (bs.drop (digestOffset d)).take 4 = ((bs.take 19).drop (digestOffset d)).take 4 := by
    have := digestOffset_le d
    rw [List.drop_take, List.take_take, min_eq_left (by omega)]
  rw [digestValue_eq_slice (digestOffset_add_three_lt hd'), digestValue_eq_slice (digestOffset_add_three_lt hd), hoffset,
    hslice, htake, ← hslice]

/-- Settles O22: the low nibble is the remainder by 16, and the four bytes at the offset lie inside the digest. -/
theorem valueIsFourBytesAtOffset : Obligations.ValueIsFourBytesAtOffset := by
  unfold Obligations.ValueIsFourBytesAtOffset
  intro d hlen
  exact ⟨digestOffset_eq_mod d, digestValue_eq_slice (digestOffset_add_three_lt (by omega))⟩

/-- Settles O23: every bound follows from offset ≤ 15, 20 ≤ length and value < 2^31. -/
theorem truncationBounds : Obligations.TruncationBounds := by
  unfold Obligations.TruncationBounds
  intro d hlen
  have hd : 20 ≤ d.length := by omega
  have hv := digestValue_lt d
  exact ⟨digestOffset_le d, digestOffset_add_three_lt hd, hv, by omega, by omega,
    fun d' hd' htake hlast => digestValue_congr hd (by omega) htake hlast⟩

/-- Settles O24: a remainder is below its divisor, and 2^31 < 10^10. -/
theorem codeNumberBounds : Obligations.CodeNumberBounds := by
  unfold Obligations.CodeNumberBounds
  intro v n hv _ _
  exact ⟨rfl, Nat.mod_lt _ (by positivity), Nat.mod_eq_of_lt (by omega)⟩

end Sys2Proof.Machine
end

section
/-! PROOFS. Codes (rules R106 to R108): the decimal string and its reading, its comparison with a token, and the engine's
functions composed. -/

namespace Sys2Proof.Machine

/-- The number a string of ASCII digits reads as, first digit most significant (rule R106). -/
def readDecimal (bs : List Byte) : Nat := bs.foldl (fun acc b => acc * 10 + (b.toNat - 0x30)) 0

theorem readDecimal_append_singleton (bs : List Byte) (b : Byte) :
    readDecimal (bs ++ [b]) = readDecimal bs * 10 + (b.toNat - 0x30) := by
  simp [readDecimal]

/-- The last digit of a number, after the digits of the number without it. -/
theorem decimal_succ (m n : Nat) : decimal m (n + 1) = decimal (m / 10) n ++ [BitVec.ofNat 8 (0x30 + m % 10)] := by
  apply List.ext_getElem
  · simp
  intro j hj _
  rw [decimal_length] at hj
  rw [decimal_getElem, List.getElem_append]
  split
  · next h =>
    rw [decimal_length] at h
    rw [decimal_getElem, Nat.div_div_eq_div_mul, ← Nat.pow_succ', show (n - 1 - j).succ = n + 1 - 1 - j by omega]
  · next h =>
    rw [decimal_length] at h
    simp [show n - j = 0 by omega]

/-- Reading back what `decimal` wrote. -/
theorem readDecimal_decimal (m n : Nat) : readDecimal (decimal m n) = m % 10 ^ n := by
  induction n generalizing m with
  | zero => simp [readDecimal, decimal, Nat.mod_one]
  | succ n ih =>
    have hdigit : (BitVec.ofNat 8 (0x30 + m % 10)).toNat - 0x30 = m % 10 := by
      rw [BitVec.toNat_ofNat]
      omega
    rw [decimal_succ, readDecimal_append_singleton, ih, hdigit, Nat.pow_succ', Nat.mod_mul]
    omega

/-- Every byte of a decimal string is an ASCII digit (rule R106). -/
theorem toNat_bounds_of_mem_decimal {m n : Nat} {b : Byte} (h : b ∈ decimal m n) : 0x30 ≤ b.toNat ∧ b.toNat ≤ 0x39 := by
  obtain ⟨j, hj, rfl⟩ := List.mem_iff_getElem.mp h
  rw [decimal_getElem_toNat]
  omega

/-- Settles O25: digit j by the definition, and the reading is m mod 10^n, which is m. -/
theorem decimalReadsBack : Obligations.DecimalReadsBack := by
  unfold Obligations.DecimalReadsBack
  intro m n _ _ hm
  refine ⟨decimal_length m n, fun j hj => ?_, fun b hb => toNat_bounds_of_mem_decimal hb, ?_⟩
  · rw [byteAt_of_lt _ _ (by rwa [decimal_length]), decimal_getElem_toNat]
  · exact (readDecimal_decimal m n).trans (Nat.mod_eq_of_lt hm)

/-- Settles O26: equal lengths keep tok_len within TOKEN, where equality is that of the first tok_len bytes. -/
theorem tokenEqualityByContent : Obligations.TokenEqualityByContent := by
  unfold Obligations.TokenEqualityByContent
  intro tokLen token code _ _ hcode
  refine ⟨⟨fun h => ?_, fun ⟨hlen, htake⟩ => ?_⟩, fun token' h => tokenEqual_congr h code⟩
  · have hlen : tokLen = code.length := ((tokenEqual_iff ..).mp h).1
    exact ⟨hlen, (tokenEqual_iff_take (by omega) code).mp h⟩
  · exact (tokenEqual_iff_take (by omega) code).mpr htake

/-! ### The source's known codes, for the secret "12345678901234567890" (rule R108) -/

theorem otp_sourceKey_0 :
    otp (beBytes 20 0x3132333435363738393031323334353637383930) 0 .sha1 6 = beBytes 6 0x373535323234 := by
  decide +kernel

theorem otp_sourceKey_1 :
    otp (beBytes 20 0x3132333435363738393031323334353637383930) 1 .sha1 6 = beBytes 6 0x323837303832 := by
  decide +kernel

theorem otp_sourceKey_9 :
    otp (beBytes 20 0x3132333435363738393031323334353637383930) 9 .sha1 6 = beBytes 6 0x353230343839 := by
  decide +kernel

/-- Settles O27: the composition is the definition, and the kernel evaluates the three codes. -/
theorem otpComposition : Obligations.OtpComposition := by
  unfold Obligations.OtpComposition
  exact ⟨fun key c h n => ⟨rfl, otp_length key c h n⟩, otp_sourceKey_0, otp_sourceKey_1, otp_sourceKey_9⟩

end Sys2Proof.Machine
end

section
/-! PROOFS. Padding, HMAC and the hashes (rules R121 to R130): the least padding, HMAC by the length of its key, and the
check values and tables, which the kernel evaluates. -/

namespace Sys2Proof.Machine

/-! ### Padding (rule R123) -/

/-- The zero bytes complete the last block. -/
theorem zeroFill_fills_block {b : Nat} (hb : 0 < b) (n f : Nat) : (n + 1 + zeroFill n b f + f) % b = 0 := by
  have hlt : (n + 1 + f) % b < b := Nat.mod_lt _ hb
  have hmul : n + 1 + f + (b - (n + 1 + f) % b) = b * ((n + 1 + f) / b + 1) := by
    have := Nat.div_add_mod (n + 1 + f) b
    rw [Nat.mul_succ]
    omega
  rw [Nat.add_right_comm, zeroFill, Nat.add_mod_mod, hmul, Nat.mul_mod_right]

/-- Any number of zero bytes that completes the last block is at least z: modulo B it is z. -/
theorem zeroFill_least {b : Nat} (hb : 0 < b) {n f z : Nat} (hz : (n + 1 + z + f) % b = 0) : zeroFill n b f ≤ z := by
  have hmod : z ≡ zeroFill n b f [MOD b] := by
    apply Nat.ModEq.add_left_cancel' (n + 1 + f)
    rw [Nat.ModEq, Nat.add_right_comm, hz, Nat.add_right_comm, zeroFill_fills_block hb]
  calc zeroFill n b f = zeroFill n b f % b := (Nat.mod_eq_of_lt (Nat.mod_lt _ hb)).symm
    _ = z % b := hmod.symm
    _ ≤ z := Nat.mod_le z b

/-- Settles O28: the parts of the padded message are read off its definition, and z is a remainder by B. -/
theorem paddingFillsBlocks : Obligations.PaddingFillsBlocks := by
  unfold Obligations.PaddingFillsBlocks
  intro h msg z p
  have hb := blockBytes_pos h
  have hlen : p.length = msg.length + 1 + z + h.lengthBytes := padMessage_length ..
  have hp : p = (msg ++ [0x80]) ++ (rep 0 z ++ beBytes h.lengthBytes (8 * msg.length)) := by
    simp [p, z, padMessage]
  have hhead : (msg ++ [0x80]).length = msg.length + 1 := by simp
  refine ⟨?_, hlen, fun z' => zeroFill_least hb, ?_, ?_, ?_⟩
  · rw [hlen, zeroFill_fills_block hb]
  · rw [hp, List.take_left' hhead]
  · rw [hp, List.drop_left' hhead, List.take_left' (rep_length ..), rep]
  · rw [← List.drop_drop, hp, List.drop_left' hhead, List.drop_left' (rep_length ..), intBe_beBytes]

/-! ### HMAC by the length of its key (rules R121 and R130) -/

theorem hmacKey_of_le {h : Hash} {key : List Byte} (hle : key.length ≤ h.blockBytes) :
    hmacKey h key = key ++ rep 0 (h.blockBytes - key.length) := by
  simp [hmacKey, Nat.not_lt.mpr hle]

theorem hmacKey_of_lt {h : Hash} {key : List Byte} (hlt : h.blockBytes < key.length) :
    hmacKey h key = h.digest key ++ rep 0 (h.blockBytes - h.digestBytes) := by
  simp [hmacKey, hlt, digest_length]

/-- Zero bytes appended to a key within its block are bytes that k0 has anyway. -/
theorem hmacKey_append_zeros {h : Hash} {key : List Byte} {n : Nat} (hle : key.length + n ≤ h.blockBytes) :
    hmacKey h (key ++ List.replicate n 0) = hmacKey h key := by
  rw [hmacKey_of_le (by simpa using hle), hmacKey_of_le (by omega), List.append_assoc, rep, rep,
    List.replicate_append_replicate, List.length_append, List.length_replicate,
    show n + (h.blockBytes - (key.length + n)) = h.blockBytes - key.length by omega]

/-- A key longer than a block has the k0 of its digest, which fits a block. -/
theorem hmacKey_digest {h : Hash} {key : List Byte} (hlt : h.blockBytes < key.length) :
    hmacKey h (h.digest key) = hmacKey h key := by
  have hfits : (h.digest key).length ≤ h.blockBytes := digest_length h key ▸ digestBytes_le_blockBytes h
  rw [hmacKey_of_le hfits, hmacKey_of_lt hlt, digest_length]

/-- HMAC reads its key through k0 only. -/
theorem hmac_congr_key {h : Hash} {key key' : List Byte} (hk : hmacKey h key = hmacKey h key') (msg : List Byte) :
    hmac h key msg = hmac h key' msg := by
  rw [hmac, hmac, hk]

/-- The exclusive or with n copies of a byte is that of each of n bytes with it. -/
theorem xorBytes_rep (xs : List Byte) (b : Byte) : xorBytes xs (rep b xs.length) = xs.map (· ^^^ b) := by
  induction xs with
  | nil => rfl
  | cons x xs ih => exact congrArg ((x ^^^ b) :: ·) ih

/-- A key of exactly one block is used as it is. -/
theorem hmac_of_length_eq {h : Hash} {key : List Byte} (hlen : key.length = h.blockBytes) (msg : List Byte) :
    hmac h key msg = h.digest (key.map (· ^^^ 0x5C) ++ h.digest (key.map (· ^^^ 0x36) ++ msg)) := by
  have hkey : hmacKey h key = key := by simp [hmacKey_of_le hlen.le, hlen, rep]
  rw [hmac, hkey, ← hlen, xorBytes_rep, xorBytes_rep]

/-- Settles O31: keys with the same k0 give the same HMAC, and an HMAC is a digest. -/
theorem hmacKeyRules : Obligations.HmacKeyRules := by
  unfold Obligations.HmacKeyRules
  exact fun h key msg => ⟨fun n hle => hmac_congr_key (hmacKey_append_zeros hle) msg,
    fun hlt => hmac_congr_key (hmacKey_digest hlt).symm msg, fun hlen => hmac_of_length_eq hlen msg,
    hmac_length h key msg⟩

/-- One block and a tail that leaves room for the 0x80 byte and the length field in the second block. -/
theorem messageBlocks_block_append {h : Hash} {blk tail : List Byte} (hblk : blk.length = h.blockBytes)
    (htail : tail.length + 1 + h.lengthBytes ≤ h.blockBytes) :
    (messageBlocks h.blockBytes (padMessage (blk ++ tail) h.blockBytes h.lengthBytes)).length = 2 := by
  rw [messageBlocks_padMessage_length, List.length_append, hblk]
  apply Nat.div_eq_of_lt_le <;> omega

/-- The key block of HMAC's inner and outer inputs. -/
theorem xorBytes_hmacKey_length (h : Hash) (key : List Byte) (b : Byte) :
    (xorBytes (hmacKey h key) (rep b h.blockBytes)).length = h.blockBytes := by
  simp

/-- An 8-byte message ends in the second block of the inner hash, and a digest in that of the outer one. -/
theorem tails_fit_block (h : Hash) :
    8 + 1 + h.lengthBytes ≤ h.blockBytes ∧ h.digestBytes + 1 + h.lengthBytes ≤ h.blockBytes := by
  cases h <;> decide

/-- Settles O32: inner and outer input are a block and a tail that fits the second block. -/
theorem hmacBlockCount : Obligations.HmacBlockCount := by
  unfold Obligations.HmacBlockCount
  intro h key msg hmsg blocks inner outer
  obtain ⟨hinner, houter⟩ := tails_fit_block h
  refine ⟨rfl, ?_, ?_, hmacKey_of_le, fun hlt => ⟨hmacKey_of_lt hlt, messageBlocks_padMessage_length h key⟩⟩
  · exact messageBlocks_block_append (xorBytes_hmacKey_length h key _) (by rwa [hmsg])
  · exact messageBlocks_block_append (xorBytes_hmacKey_length h key _) (by rwa [digest_length])

/-! ### Check values (rules R124, R126 and R128) -/

theorem sha1_digest_empty : intBe (Hash.sha1.digest []) = 0xda39a3ee5e6b4b0d3255bfef95601890afd80709 := by
  decide +kernel

theorem sha1_digest_abc :
    intBe (Hash.sha1.digest [0x61, 0x62, 0x63]) = 0xa9993e364706816aba3e25717850c26c9cd0d89d := by
  decide +kernel

theorem sha256_digest_empty :
    intBe (Hash.sha256.digest []) = 0xe3b0c44298fc1c149afbf4c8996fb92427ae41e4649b934ca495991b7852b855 := by
  decide +kernel

theorem sha256_digest_abc :
    intBe (Hash.sha256.digest [0x61, 0x62, 0x63]) =
      0xba7816bf8f01cfea414140de5dae2223b00361a396177a9cb410ff61f20015ad := by
  decide +kernel

theorem sha512_digest_empty :
    intBe (Hash.sha512.digest []) =
      0xcf83e1357eefb8bdf1542850d66d8007d620e4050b5715dc83f4a921d36ce9ce47d0d13c5d85f2b0ff8318d2877eec2f63b931bd47417a81a538327af927da3e := by
  decide +kernel

theorem sha512_digest_abc :
    intBe (Hash.sha512.digest [0x61, 0x62, 0x63]) =
      0xddaf35a193617abacc417349ae20413112e6fa4e89a97ea20a9eeee64b55d39a2192992a274fc1a836ba3c23a3feebbd454d4423643ce80e2a9ac94fa54ca49f := by
  decide +kernel

/-- Settles O29: the kernel evaluates each of the six digests. -/
theorem hashCheckValues : Obligations.HashCheckValues := by
  unfold Obligations.HashCheckValues
  exact ⟨sha1_digest_empty, sha1_digest_abc, sha256_digest_empty, sha256_digest_abc, sha512_digest_empty,
    sha512_digest_abc⟩

/-! ### Constants (rule R129) -/

/-- The first 80 primes. -/
def firstPrimes : List Nat :=
  [2, 3, 5, 7, 11, 13, 17, 19, 23, 29, 31, 37, 41, 43, 47, 53, 59, 61, 67, 71] ++
  [73, 79, 83, 89, 97, 101, 103, 107, 109, 113, 127, 131, 137, 139, 149, 151, 157, 163, 167, 173] ++
  [179, 181, 191, 193, 197, 199, 211, 223, 227, 229, 233, 239, 241, 251, 257, 263, 269, 271, 277, 281] ++
  [283, 293, 307, 311, 313, 317, 331, 337, 347, 349, 353, 359, 367, 373, 379, 383, 389, 397, 401, 409]

/-- Below 21 * 21, the divisors below 21 decide: of two factors of n one is below 21. -/
theorem no_divisor_iff_none_below_21 {n : Nat} (hn : n < 21 * 21) :
    (∀ m < n, m < 2 ∨ n % m ≠ 0) ↔ ∀ m < 21, m < 2 ∨ n ≤ m ∨ n % m ≠ 0 := by
  constructor
  · intro h m _
    have := h m
    omega
  · intro h m hmn
    by_contra! hdiv
    obtain ⟨hm, hmod⟩ := hdiv
    obtain ⟨k, rfl⟩ := Nat.dvd_of_mod_eq_zero hmod
    have hk : 1 < k := (Nat.lt_mul_iff_one_lt_right (by omega)).mp hmn
    have hkn : k < m * k := (Nat.lt_mul_iff_one_lt_left (by omega)).mpr hm
    obtain hlt | hge := Nat.lt_or_ge m 21
    · have := h m hlt
      omega
    · have hlt : k < 21 := by
        by_contra! hge'
        exact absurd (Nat.mul_le_mul hge hge') (by omega)
      have := h k hlt
      have := Nat.mul_mod_left m k
      omega

theorem filter_primes_eq_firstPrimes :
    ((List.range 410).filter fun n => decide (2 ≤ n ∧ ∀ m < n, m < 2 ∨ n % m ≠ 0)) = firstPrimes := by
  calc
    _ = (List.range 410).filter fun n => decide (2 ≤ n ∧ ∀ m < 21, m < 2 ∨ n ≤ m ∨ n % m ≠ 0) := by
      apply List.filter_congr
      intro n hn
      rw [List.mem_range] at hn
      simp only [no_divisor_iff_none_below_21 (show n < 21 * 21 by omega)]
    _ = firstPrimes := by decide +kernel

/-- k is the first b bits of the fraction of the d-th root of p (rule R129). -/
abbrev IsRootFraction (d b p k : Nat) : Prop :=
  ∃ q < p, (q * 2 ^ b + k) ^ d ≤ p * 2 ^ (d * b) ∧ p * 2 ^ (d * b) < (q * 2 ^ b + k + 1) ^ d

theorem k256_isRootFraction : ∀ i < 64, IsRootFraction 3 32 (firstPrimes.getD i 0) (k256.getD i 0).toNat := by
  decide +kernel

theorem k512_isRootFraction : ∀ i < 80, IsRootFraction 3 64 (firstPrimes.getD i 0) (k512.getD i 0).toNat := by
  decide +kernel

/-- The initial words in order. -/
abbrev Sha2State.words {w : Nat} (h : Sha2State w) : List (BitVec w) := [h.a, h.b, h.c, h.d, h.e, h.f, h.g, h.h]

theorem sha256_init_isRootFraction :
    ∀ i < 8, IsRootFraction 2 32 (firstPrimes.getD i 0) (sha256Params.init.words.getD i 0).toNat := by
  decide +kernel

theorem sha512_init_isRootFraction :
    ∀ i < 8, IsRootFraction 2 64 (firstPrimes.getD i 0) (sha512Params.init.words.getD i 0).toNat := by
  decide +kernel

/-- Settles O30: the primes are listed once, and the kernel checks each entry against its prime. -/
theorem hashConstantsFromPrimes : Obligations.HashConstantsFromPrimes := by
  unfold Obligations.HashConstantsFromPrimes
  rw [filter_primes_eq_firstPrimes]
  exact ⟨rfl, rfl, rfl, k256_isRootFraction, k512_isRootFraction, sha256_init_isRootFraction,
    sha512_init_isRootFraction⟩

end Sys2Proof.Machine
end

section
/-! PROOFS. GEN and VERIFY on legal operands (rules R150 to R158): the code GEN writes, the candidates of the clamped range,
the least of them that has the token as its code, and the two ways VERIFY completes. -/

namespace Sys2Proof.Machine

/-! ### GEN -/

/-- GEN on legal operands writes the code of COUNTER (rule R150). -/
theorem exec_gen_of_operable {s : State} {h : Hash} (ho : s.Operable h) :
    exec .gen s = .next (s.writeCode s.digits (otp s.secret s.counterInt h s.digits)).complete := by
  rw [exec, execGen, withInputs_of_ok _ (validate_of_operable .gen ho ⟨nofun, nofun⟩)]

/-- Settles O33: CODE_LEN keeps all four bits of CFG.DIGITS, and the code fits the CODE buffer. -/
theorem genWritesTheCode : Obligations.GenWritesTheCode := by
  unfold Obligations.GenWritesTheCode
  intro s h ho n code
  have hlen : code.length = n := otp_length ..
  have hfits : code.length ≤ 12 := by
    obtain ⟨-, -, -, -, hn⟩ := ho
    omega
  refine ⟨_, exec_gen_of_operable ho, rfl, ?_, ?_⟩
  · exact (BitVec.ofNat_toNat 4 s.cfgDigits).trans (BitVec.setWidth_eq _)
  · exact (codeBuffer_toList code hfits).trans (by rw [hlen])

/-! ### The candidates -/

/-- Integer i is a candidate of VERIFY: it lies in the clamped range (rule R153). -/
def State.Candidate (s : State) (i : Int) : Prop :=
  searchLo s.counterInt s.windowInt ≤ i ∧ i ≤ searchHi s.counterInt s.windowInt

/-- The token is counter i's code under hash h (rules R107, R108). -/
def State.TokenIsCode (s : State) (h : Hash) (i : Int) : Prop :=
  s.tokLen = s.digits ∧ s.token.toList.take s.tokLen = otp s.secret i h s.digits

/-- COUNTER as a number is a 64-bit counter. -/
theorem counter_toInt_range (counter : DWord) : -2 ^ 63 ≤ counter.toInt ∧ counter.toInt ≤ 2 ^ 63 - 1 :=
  ⟨counter.le_toInt, Int.le_sub_one_of_lt counter.toInt_lt⟩

/-- Settles O35: the range lies within WINDOW < 2^31 of COUNTER on either side, which bounds every distance and the count. -/
theorem candidateRange : Obligations.CandidateRange := by
  unfold Obligations.CandidateRange
  intro counter window hw c lo hi
  obtain ⟨hge, hle⟩ := counter_toInt_range counter
  have hwindow : window.toInt < 2 ^ 31 := window.toInt_lt
  obtain ⟨hlo, hhi, hlo_ge, hhi_le, hlo_window, hhi_window⟩ := search_range c window.toInt hge hle hw
  have hcount : (candidateCount lo hi : Int) = hi - lo + 1 := Int.toNat_of_nonneg (by omega)
  refine ⟨rfl, rfl, hlo, hhi, fun i hi₁ hi₂ => ?_, by omega, by omega, by omega, ?_⟩
  · exact ⟨by omega, by omega, by omega, by omega, ofInt_toInt_of_range (by omega) (by omega)⟩
  · rintro rfl
    have hzero : (0 : Word).toInt = 0 := rfl
    omega

theorem candidate_counterInt {s : State} (hw : 0 ≤ s.windowInt) : s.Candidate s.counterInt := by
  obtain ⟨hge, hle⟩ := counter_toInt_range s.counter
  obtain ⟨hlo, hhi, -⟩ := search_range s.counterInt s.windowInt hge hle hw
  exact ⟨hlo, hhi⟩

/-- A candidate as the two-sided bound of rule R153. -/
theorem candidate_iff (s : State) (i : Int) :
    s.Candidate i ↔ (s.counterInt - s.windowInt ≤ i ∧ i ≤ s.counterInt + s.windowInt) ∧ -2 ^ 63 ≤ i ∧ i ≤ 2 ^ 63 - 1 := by
  simp only [State.Candidate, searchLo, searchHi]
  omega

/-- On legal operands a candidate is a hit exactly when the token is its code (rules R107, R151). -/
theorem candidateHit_iff_tokenIsCode {s : State} {h : Hash} (ho : s.Operable h) (i : Int) :
    candidateHit s ⟨s.secret, h, s.digits⟩ i = true ↔ s.TokenIsCode h i := by
  obtain ⟨-, -, -, hd, hd'⟩ := ho
  have hlen := otp_length s.secret i h s.digits
  obtain ⟨hequal, -⟩ := tokenEqualityByContent s.tokLen s.token (otp s.secret i h s.digits) s.tokenLen.isLt
    (hlen.symm ▸ hd) (hlen.symm ▸ hd')
  rwa [hlen] at hequal

/-- Counter c is the least candidate that has the token as its code (rule R152). -/
structure State.LeastMatch (s : State) (h : Hash) (c : Int) : Prop where
  candidate : s.Candidate c
  tokenIsCode : s.TokenIsCode h c
  least : ∀ i, s.Candidate i → s.TokenIsCode h i → c ≤ i

section
variable {s : State} {h : Hash} (ho : s.Operable h)
include ho

theorem leastMatch_of_windowSearch {c : Int} (hs : windowSearch s ⟨s.secret, h, s.digits⟩ = some c) :
    s.LeastMatch h c := by
  obtain ⟨hc, hhit, hleast⟩ := windowSearch_eq_some hs
  exact ⟨hc, (candidateHit_iff_tokenIsCode ho c).mp hhit,
    fun i ⟨hlo, _⟩ hcode => hleast i hlo ((candidateHit_iff_tokenIsCode ho i).mpr hcode)⟩

theorem not_tokenIsCode_of_windowSearch_eq_none (hs : windowSearch s ⟨s.secret, h, s.digits⟩ = none) {i : Int}
    (hi : s.Candidate i) : ¬s.TokenIsCode h i := by
  obtain ⟨hlo, hhi⟩ := hi
  rw [← candidateHit_iff_tokenIsCode ho, candidateHit_of_windowSearch_eq_none hs hlo hhi]
  exact Bool.false_ne_true

/-- The search finds the least match, since it finds one and there is only one. -/
theorem windowSearch_of_leastMatch {c : Int} (hc : s.LeastMatch h c) :
    windowSearch s ⟨s.secret, h, s.digits⟩ = some c := by
  cases hs : windowSearch s ⟨s.secret, h, s.digits⟩ with
  | some c' =>
    have hc' := leastMatch_of_windowSearch ho hs
    rw [le_antisymm (hc'.least c hc.candidate hc.tokenIsCode) (hc.least c' hc'.candidate hc'.tokenIsCode)]
  | none => exact absurd hc.tokenIsCode (not_tokenIsCode_of_windowSearch_eq_none ho hs hc.candidate)

theorem windowSearch_eq_none_of_forall (hnone : ∀ i, s.Candidate i → ¬s.TokenIsCode h i) :
    windowSearch s ⟨s.secret, h, s.digits⟩ = none := by
  cases hs : windowSearch s ⟨s.secret, h, s.digits⟩ with
  | some c =>
    have hc := leastMatch_of_windowSearch ho hs
    exact absurd hc.tokenIsCode (hnone c hc.candidate)
  | none => rfl

/-! ### VERIFY -/

variable (hw : 0 ≤ s.windowInt)
include hw

theorem validate_verify_of_operable : validate .verify s = .ok ⟨s.secret, h, s.digits⟩ :=
  validate_of_operable .verify ho ⟨fun _ => hw, nofun⟩

/-- VERIFY completes with MATCHED = 1 and the DELTA that leads from COUNTER to the least match (rules R151, R152). -/
theorem exec_verify_of_leastMatch {d : DWord} (hd : s.LeastMatch h (s.counterInt + d.toInt)) :
    exec .verify s = .next (s.writeVerdict true d).complete := by
  have hexec := exec_verify_of_match (validate_verify_of_operable ho hw) (windowSearch_of_leastMatch ho hd)
  rwa [add_sub_cancel_left, BitVec.ofInt_toInt] at hexec

/-- VERIFY completes without a match where no candidate has the token as its code (rules R151, R152). -/
theorem exec_verify_of_forall_not_tokenIsCode (hnone : ∀ i, s.Candidate i → ¬s.TokenIsCode h i) :
    exec .verify s = .next (s.writeVerdict false 0).complete :=
  exec_verify_of_noMatch (validate_verify_of_operable ho hw) (windowSearch_eq_none_of_forall ho hnone)

/-- There is a least match, at a DELTA from COUNTER, or no candidate has the token as its code (rules R152, R153). -/
theorem exists_leastMatch_or_forall_not_tokenIsCode :
    (∃ d : DWord, s.LeastMatch h (s.counterInt + d.toInt)) ∨ ∀ i, s.Candidate i → ¬s.TokenIsCode h i := by
  cases hs : windowSearch s ⟨s.secret, h, s.digits⟩ with
  | some c => exact .inl ⟨_, (counterInt_add_delta_of_windowSearch hw hs).symm ▸ leastMatch_of_windowSearch ho hs⟩
  | none => exact .inr fun _ => not_tokenIsCode_of_windowSearch_eq_none ho hs

end

/-- With WINDOW = 0 a token that is COUNTER's own code matches with DELTA = 0, as no other counter is a candidate
(rule R156). -/
theorem exec_verify_of_window_eq_zero {s : State} {h : Hash} (ho : s.Operable h) (hzero : s.windowInt = 0)
    (hcode : s.TokenIsCode h s.counterInt) : exec .verify s = .next (s.writeVerdict true 0).complete := by
  have hsame : s.counterInt + (0 : DWord).toInt = s.counterInt := add_zero _
  have hmatch : s.LeastMatch h s.counterInt := by
    refine ⟨candidate_counterInt hzero.ge, hcode, fun i hi _ => ?_⟩
    obtain ⟨⟨hlo, -⟩, -⟩ := (candidate_iff s i).mp hi
    omega
  exact exec_verify_of_leastMatch ho hzero.ge (hsame.symm ▸ hmatch)

/-- Settles O34: where there is a least match VERIFY reports it, and where there is none no candidate is a hit. -/
theorem verifyFindsTheLeastMatch : Obligations.VerifyFindsTheLeastMatch := by
  unfold Obligations.VerifyFindsTheLeastMatch
  intro s h ho hw c lo hi hit
  obtain ⟨d, hd⟩ | hnone := exists_leastMatch_or_forall_not_tokenIsCode ho hw
  · have ⟨⟨hlo, hhi⟩, hcode, hleast⟩ := hd
    refine ⟨_, exec_verify_of_leastMatch ho hw hd, rfl, ⟨fun _ => ⟨_, hlo, hhi, hcode⟩, fun _ => rfl⟩,
      fun _ => ⟨hlo, hhi, hcode, fun i hi_lo hlt hhit => ?_⟩, nofun⟩
    exact absurd hlt (not_lt.mpr (hleast i ⟨hi_lo, hlt.le.trans hhi⟩ hhit))
  · exact ⟨_, exec_verify_of_forall_not_tokenIsCode ho hw hnone, rfl,
      ⟨nofun, fun ⟨i, hi_lo, hi_hi, hhit⟩ => absurd hhit (hnone i ⟨hi_lo, hi_hi⟩)⟩, nofun, fun _ => rfl⟩

/-- Settles O36: no candidate's code has the token's length. -/
theorem tokenLengthMismatchIsNoMatch : Obligations.TokenLengthMismatchIsNoMatch := by
  unfold Obligations.TokenLengthMismatchIsNoMatch
  intro s h ho hw hne
  exact exec_verify_of_forall_not_tokenIsCode ho hw fun _ _ ⟨hlen, _⟩ => hne hlen

/-- Settles O37: GEN's code, as O33 gives it, is the code of the only candidate. -/
theorem roundTripMatchesWithDeltaZero : Obligations.RoundTripMatchesWithDeltaZero := by
  unfold Obligations.RoundTripMatchesWithDeltaZero
  intro s t u h ho hgen hsecret hu hdigits hcounter hwindow hlen htoken
  obtain ⟨t', hgen', -, hcodeLen, hcode⟩ := genWritesTheCode s h ho
  obtain rfl := Host.Outcome.next.inj (hgen.symm.trans hgen')
  have hzero : u.windowInt = 0 := congrArg BitVec.toInt hwindow
  refine exec_verify_of_window_eq_zero hu hzero ⟨?_, ?_⟩
  · rw [State.tokLen, hlen, hcodeLen, State.digits, hdigits]
  · rw [State.tokLen, htoken, hcode, hcodeLen, List.take_left' (otp_length ..), State.secret, hsecret,
      State.counterInt, hcounter, State.digits, hdigits]

/-- Settles O38: a candidate that has the token as its code collides with COUNTER + d; so for |d| ≤ WINDOW, where COUNTER + d
is itself a candidate, it is the least match, and otherwise there is none. -/
theorem driftDetectionWithoutCollision : Obligations.DriftDetectionWithoutCollision := by
  unfold Obligations.DriftDetectionWithoutCollision
  intro s h d ho hw c code hle hge hlen htoken
  have hcollides {i : Int} (hi : s.TokenIsCode h i) : code i = code (c + d) := hi.2.symm.trans htoken
  refine ⟨fun hd hdistinct => ?_, fun _ hdistinct => ?_⟩
  · have hwindow : s.window.toInt < 2 ^ 31 := s.window.toInt_lt
    have hdelta : (BitVec.ofInt 64 d).toInt = d := ofInt_toInt_of_range (by omega) (by omega)
    have hinside : c - s.window.toInt ≤ c + d ∧ c + d ≤ c + s.window.toInt := by omega
    have hmatch : s.LeastMatch h (c + d) := by
      refine ⟨(candidate_iff s _).mpr ⟨hinside, hge, hle⟩, ⟨hlen, htoken⟩, fun i hi hcode => ?_⟩
      obtain ⟨⟨hlo, -⟩, hi_ge, -⟩ := (candidate_iff s i).mp hi
      by_contra hlt
      exact hdistinct i hlo (not_le.mp hlt) hi_ge (hcollides hcode)
    exact exec_verify_of_leastMatch ho hw (hdelta.symm ▸ hmatch)
  · refine exec_verify_of_forall_not_tokenIsCode ho hw fun i hi hcode => ?_
    obtain ⟨⟨hlo, hhi⟩, hi_ge, hi_le⟩ := (candidate_iff s i).mp hi
    exact hdistinct i hlo hhi hi_ge hi_le (hcollides hcode)

end Sys2Proof.Machine
end

section
/-! PROOFS. TGEN and TVERIFY (rules R170 to R172): the derived counter as a floor, what the two commands complete with,
and that each is GEN or VERIFY at the derived counter. -/

namespace Sys2Proof.Machine

/-! ### The derived counter -/

/-- The divisor of rule R170 is positive, so rounding toward minus infinity is division with a remainder that is never
negative. -/
theorem totpCounter_eq_ediv (nowMs : Int) (timestep : Nat) : totpCounter nowMs timestep = nowMs / (1000 * timestep) :=
  Int.fdiv_eq_ediv_of_nonneg _ (by omega)

/-- Dividing the milliseconds first and the seconds then gives the same floor (rule R170). -/
theorem totpCounter_eq_fdiv_fdiv (nowMs : Int) (timestep : Nat) :
    totpCounter nowMs timestep = (nowMs.fdiv 1000).fdiv timestep :=
  (Int.fdiv_fdiv_eq_fdiv_mul nowMs (by decide) (Int.natCast_nonneg timestep)).symm

/-- The derived counter is a 64-bit counter, since it is no further from 0 than NOW_MS (rule R170). -/
theorem totpCounter_range (nowMs : DWord) {timestep : Nat} (ht : timestep ≠ 0) :
    -2 ^ 63 ≤ totpCounter nowMs.toInt timestep ∧ totpCounter nowMs.toInt timestep ≤ 2 ^ 63 - 1 := by
  obtain ⟨hge, hle⟩ := counter_toInt_range nowMs
  have hpos : (0 : Int) < 1000 * timestep := by omega
  rw [totpCounter_eq_ediv, Int.le_ediv_iff_mul_le hpos, Int.le_sub_one_iff, Int.ediv_lt_iff_lt_mul hpos]
  omega

/-- Settles O39: the two bounds are those of a quotient by a positive divisor, and NOW_MS's range gives q's. -/
theorem totpCounterIsTheFloor : Obligations.TotpCounterIsTheFloor := by
  unfold Obligations.TotpCounterIsTheFloor
  intro nowMs timestep ht q
  have ht : timestep.toNat ≠ 0 := BitVec.toNat_ne_iff_ne.mpr ht
  have hpos : (0 : Int) < 1000 * timestep.toNat := by omega
  have hq : q = nowMs.toInt / (1000 * timestep.toNat) := totpCounter_eq_ediv ..
  obtain ⟨hge, hle⟩ := totpCounter_range nowMs ht
  refine ⟨?_, ?_, totpCounter_eq_fdiv_fdiv .., hge, hle, ofInt_toInt_of_range hge hle⟩
  · exact hq ▸ Int.ediv_mul_le _ hpos.ne'
  · exact hq ▸ Int.lt_ediv_add_one_mul_self _ hpos

/-! ### TGEN and TVERIFY on legal operands -/

/-- TIMESTEP ≠ 0 is all that TGEN and TVERIFY ask of their own operands (rule R191). -/
theorem ownOperandOk_of_timestep_ne_zero {cmd : Instr} {s : State} (hcmd : cmd ≠ .verify) (ht : s.timestep ≠ 0) :
    OwnOperandOk cmd s :=
  ⟨fun h => absurd h hcmd, fun _ => BitVec.toNat_ne_iff_ne.mpr ht⟩

section
variable {s : State} {h : Hash} (ho : s.Operable h)
include ho

/-- CODE_LEN and CODE after a code is written: all four bits of CFG.DIGITS, and the code with zeros up to 12 bytes
(rules R35, R150, R171). -/
theorem writeCode_otp_of_operable (c : Int) :
    (s.writeCode s.digits (otp s.secret c h s.digits)).codeLen = s.cfgDigits ∧
      (s.writeCode s.digits (otp s.secret c h s.digits)).code.toList =
        otp s.secret c h s.digits ++ List.replicate (12 - s.digits) 0 := by
  obtain ⟨-, -, -, -, hdigits⟩ := ho
  have hlen : (otp s.secret c h s.digits).length = s.digits := otp_length ..
  have hfits : (otp s.secret c h s.digits).length ≤ 12 := by
    rw [hlen, State.digits]
    omega
  refine ⟨(BitVec.ofNat_toNat 4 s.cfgDigits).trans (BitVec.setWidth_eq _), ?_⟩
  rw [State.writeCode_code, codeBuffer_toList _ hfits, hlen]

variable (ht : s.timestep ≠ 0)
include ht

/-- TGEN on legal operands writes the code of the derived counter (rule R171). -/
theorem exec_tgen_of_operable :
    exec .tgen s = .next (s.writeCode s.digits (otp s.secret s.derivedCounter h s.digits)).complete := by
  have hv := validate_of_operable .tgen ho (ownOperandOk_of_timestep_ne_zero nofun ht)
  rw [exec, execTgen, withInputs_of_ok _ hv]

/-- TVERIFY on legal operands writes whether the derived counter is a hit (rule R172). -/
theorem exec_tverify_of_operable :
    exec .tverify s =
      .next (s.writeMatched (candidateHit s ⟨s.secret, h, s.digits⟩ s.derivedCounter)).complete := by
  have hv := validate_of_operable .tverify ho (ownOperandOk_of_timestep_ne_zero nofun ht)
  rw [exec, execTverify, withInputs_of_ok _ hv, candidateHit]

end

/-- Settles O40: TGEN's effect, and the fields of a written code. -/
theorem tgenWritesTheCode : Obligations.TgenWritesTheCode := by
  unfold Obligations.TgenWritesTheCode
  intro s h ho ht n code
  obtain ⟨hlen, hcode⟩ := writeCode_otp_of_operable ho s.derivedCounter
  exact ⟨_, exec_tgen_of_operable ho ht, rfl, hlen, hcode⟩

/-- Settles O41: MATCHED is whether the derived counter is a hit, that is, whether the token is its code. -/
theorem tverifyComparesOneCode : Obligations.TverifyComparesOneCode := by
  unfold Obligations.TverifyComparesOneCode
  intro s h ho ht code
  exact ⟨_, exec_tverify_of_operable ho ht, rfl, candidateHit_iff_tokenIsCode ho s.derivedCounter⟩

/-! ### TGEN as GEN and TVERIFY as VERIFY, errors included -/

/-- A command whose own operands are legal validates as GEN does, which has none (rule R191). -/
theorem validate_eq_validate_gen (cmd : Instr) {s : State} (hown : OwnOperandOk cmd s) :
    validate cmd s = validate .gen s := by
  obtain ⟨hwindow, htimestep⟩ := hown
  have hw : ¬(cmd = .verify ∧ s.windowInt < 0) := fun ⟨hcmd, hneg⟩ => absurd (hwindow hcmd) (not_le.mpr hneg)
  have ht : ¬((cmd = .tgen ∨ cmd = .tverify) ∧ s.timestepNat = 0) := fun ⟨hcmd, hzero⟩ => htimestep hcmd hzero
  simp [validate, hw, ht]

/-- A command that validates as another does, from a state that differs by g, ends with a next state that differs by g,
where its error entries and effects do. -/
theorem withInputs_transfer {cmd cmd' : Instr} {s s' t : State} {f f' : Inputs → State} (g : State → State)
    (hv : validate cmd' s' = validate cmd s) (herr : ∀ e, s'.raise e = g (s.raise e))
    (hok : ∀ x, (f' x).complete = g (f x).complete) (h : withInputs cmd s f = .next t) :
    withInputs cmd' s' f' = .next (g t) := by
  obtain ⟨e, hx, h'⟩ | ⟨x, hx, h'⟩ := withInputs_cases cmd s f <;>
    obtain rfl := Host.Outcome.next.inj (h.symm.trans h')
  · rw [withInputs_of_error f' (hv.trans hx), herr]
  · rw [withInputs_of_ok f' (hv.trans hx), hok]

/-- COUNTER holds the derived counter whole once it is written there (rule R170). -/
theorem ofInt_derivedCounter_toInt {s : State} (ht : s.timestep ≠ 0) :
    (BitVec.ofInt 64 s.derivedCounter).toInt = s.derivedCounter := by
  obtain ⟨hge, hle⟩ := totpCounter_range s.nowMs (BitVec.toNat_ne_iff_ne.mpr ht)
  exact ofInt_toInt_of_range hge hle

/-- With WINDOW = 0 COUNTER is the one candidate (rule R156). -/
theorem windowSearch_of_window_eq_zero {s : State} (hzero : s.windowInt = 0) (x : Inputs) :
    windowSearch s x = if candidateHit s x s.counterInt then some s.counterInt else none := by
  obtain ⟨hge, hle⟩ := counter_toInt_range s.counter
  have hlo : searchLo s.counterInt 0 = s.counterInt := by
    rw [searchLo, sub_zero]
    exact max_eq_left hge
  have hhi : searchHi s.counterInt 0 = s.counterInt := by
    rw [searchHi, add_zero]
    exact min_eq_left hle
  have hcount : candidateCount s.counterInt s.counterInt = 1 := by
    rw [candidateCount]
    omega
  rw [windowSearch, hzero, hlo, hhi, hcount, firstHit, firstHit]

/-- Settles O42: the two validate alike, and GEN's counter is the derived one. -/
theorem tgenEqualsGenAtDerivedCounter : Obligations.TgenEqualsGenAtDerivedCounter := by
  unfold Obligations.TgenEqualsGenAtDerivedCounter
  intro s t ht h c
  have hv : validate .gen { s with counter := c } = validate .tgen s :=
    calc
      _ = validate .gen s := rfl
      _ = validate .tgen s := (validate_eq_validate_gen .tgen (ownOperandOk_of_timestep_ne_zero nofun ht)).symm
  have hcounter : State.counterInt { s with counter := c } = s.derivedCounter := ofInt_derivedCounter_toInt ht
  refine withInputs_transfer (fun u => { u with counter := c }) hv (fun _ => rfl) (fun x => ?_) h
  rw [hcounter]
  rfl

/-- Settles O43: the two validate alike, and VERIFY's one candidate is the derived counter, at distance 0. -/
theorem tverifyEqualsVerifyWithoutWindow : Obligations.TverifyEqualsVerifyWithoutWindow := by
  unfold Obligations.TverifyEqualsVerifyWithoutWindow
  intro s t ht hdelta h c
  have hv : validate .verify { s with counter := c, window := 0 } = validate .tverify s :=
    calc
      _ = validate .gen { s with counter := c, window := 0 } :=
        validate_eq_validate_gen .verify ⟨fun _ => le_rfl, nofun⟩
      _ = validate .gen s := rfl
      _ = validate .tverify s := (validate_eq_validate_gen .tverify (ownOperandOk_of_timestep_ne_zero nofun ht)).symm
  have hcounter : State.counterInt { s with counter := c, window := 0 } = s.derivedCounter :=
    ofInt_derivedCounter_toInt ht
  refine withInputs_transfer (fun u => { u with counter := c, window := 0 }) hv (fun _ => rfl) (fun x => ?_) h
  have hhit : tokenEqual s.tokLen s.token (otp x.key s.derivedCounter x.hash x.digits) =
      candidateHit { s with counter := c, window := 0 } x s.derivedCounter := rfl
  rw [windowSearch_of_window_eq_zero rfl, hcounter, hhit]
  cases candidateHit { s with counter := c, window := 0 } x s.derivedCounter with
  | false => simp [State.writeVerdict, State.writeMatched, State.complete, hdelta]
  | true => simp [State.writeVerdict, State.writeMatched, State.complete, hdelta]

end Sys2Proof.Machine
end

section
/-! PROOFS. The housekeeping commands: what ZEROIZE erases (rule R180), and the words that are no command (rule R181). -/

namespace Sys2Proof.Machine

/-! ### ZEROIZE -/

/-- A buffer of zeros reads 0 everywhere, beyond its end too. -/
theorem byteAt_rep_zero (n j : Nat) : byteAt (rep 0 n) j = 0 := by
  by_cases hj : j < (rep 0 n).length
  · rw [byteAt_of_lt _ _ hj]
    exact List.getElem_replicate _
  · exact byteAt_of_le _ _ (Nat.le_of_not_lt hj)

/-- Settles O44: the state is the one with the secrets erased; KEY keeps its size and both buffers are zeros. -/
theorem zeroizeErasesSecretAndToken : Obligations.ZeroizeErasesSecretAndToken := by
  unfold Obligations.ZeroizeErasesSecretAndToken
  exact fun s => ⟨s.eraseSecrets.complete, rfl, rfl, eraseSecrets_key_length s, byteAt_rep_zero s.keyMax,
    fun j => Vector.getElem_replicate j.isLt⟩

/-- Settles O45: ZEROIZE leaves KEY_LEN = 0, on which no other command passes its first check. -/
theorem commandsFailAfterZeroize : Obligations.CommandsFailAfterZeroize := by
  unfold Obligations.CommandsFailAfterZeroize
  intro s t u i hzeroize hi hkeyLen
  have ht : s.eraseSecrets.complete = t := Host.Outcome.next.inj hzeroize
  have hu : u.keyLen = 0 := by rw [hkeyLen, ← ht, State.complete_keyLen, State.eraseSecrets_keyLen]
  exact exec_of_keyLen_eq_zero hi hu

/-! ### Illegal command words -/

/-- The command words are numbers from 1 to 5 (rule R81). -/
theorem encode_toNat_range (i : Instr) : 1 ≤ (encode i).toNat ∧ (encode i).toNat ≤ 5 := by cases i <;> decide

/-- A word outside the range of the command words decodes to none of them (rule R82). -/
theorem exists_decode_eq_error {w : Word} (hw : w.toNat = 0 ∨ 6 ≤ w.toNat) : ∃ e, decode w = .error e := by
  cases hd : decode w with
  | error e => exact ⟨e, rfl⟩
  | ok i =>
    obtain ⟨hlo, hhi⟩ := encode_toNat_range i
    rw [eq_encode_of_decode hd] at hw
    omega

/-- Settles O47: the word in CMD decodes to no command, so the engine's turn is error entry, whatever the operands. -/
theorem illegalCommandReported : Obligations.IllegalCommandReported := by
  unfold Obligations.IllegalCommandReported
  intro s hnext hb hw
  obtain ⟨e, hd⟩ := exists_decode_eq_error hw
  calc step s
      _ = engineTurn (s.withAgenda s.agenda.tail) := step_of_engineNext s hnext
      _ = .next ((s.withAgenda s.agenda.tail).raise .illegalCommand) := engineTurn_of_decode_error hb hd

end Sys2Proof.Machine
end

section
/-! PROOFS. The errors of rule R190 in the order of rule R191: what validation answers at each check, and how a command
ends by what it answers. -/

namespace Sys2Proof.Machine

/-! ### How a command ends, by its validation -/

/-- Every command but ZEROIZE ends in error entry where its validation answers an error (rules R191, R193). -/
theorem exec_of_validate_error {i : Instr} {s : State} {e : ErrorKind} (hi : i ≠ .zeroize)
    (hv : validate i s = .error e) : exec i s = .next (s.raise e) := by
  cases i with
  | zeroize => exact absurd rfl hi
  | gen | verify | tgen | tverify => exact withInputs_of_error _ hv

/-- A command whose validation passes leaves ERR alone: no effect writes it (rules R150, R151, R171, R172). -/
theorem exec_err_of_validate_ok {i : Instr} {s : State} {x : Inputs} (hv : validate i s = .ok x) :
    ∃ t, exec i s = .next t ∧ t.err = s.err := by
  obtain ⟨_, _, he, -⟩ | ⟨_, _, _, h⟩ | ⟨_, _, _, ⟨_, _, h⟩ | ⟨_, h⟩⟩ | ⟨_, _, _, h⟩ | ⟨_, _, _, h⟩ | ⟨_, h⟩ :=
    exec_cases i s
  · cases hv.symm.trans he
  all_goals exact ⟨_, h, rfl⟩

/-! ### The checks of all four commands -/

/-- CFG.HASH = 3 is the one value that selects no hash (rule R86). -/
theorem hashOfSelector_eq_none_iff (h : BitVec 2) : hashOfSelector h = none ↔ h.toNat = 3 := by
  revert h
  decide

theorem exists_hashOfSelector {h : BitVec 2} (hne : h.toNat ≠ 3) : ∃ hash, hashOfSelector h = some hash :=
  Option.ne_none_iff_exists'.mp (mt (hashOfSelector_eq_none_iff h).mp hne)

section
variable {s : State} (cmd : Instr)

theorem validate_of_secret_bad (hsecret : s.keyLen.toNat = 0 ∨ s.key.length < s.keyLen.toNat) :
    validate cmd s = .error .invalidSecret :=
  if_pos hsecret

variable (hsecret : ¬(s.keyLen.toNat = 0 ∨ s.key.length < s.keyLen.toNat))
include hsecret

theorem validate_of_hash_bad (hhash : s.cfgHash.toNat = 3) : validate cmd s = .error .unsupportedHash := by
  have hnone := (hashOfSelector_eq_none_iff s.cfgHash).mpr hhash
  rw [validate, State.keyMax, if_neg hsecret, hnone]

variable (hhash : s.cfgHash.toNat ≠ 3)
include hhash

theorem validate_of_digits_bad (hdigits : s.cfgDigits.toNat = 0 ∨ 11 ≤ s.cfgDigits.toNat) :
    validate cmd s = .error .invalidDigits := by
  obtain ⟨h, hsome⟩ := exists_hashOfSelector hhash
  have hrange : s.digits < 1 ∨ 10 < s.digits := hdigits.imp_left Nat.lt_one_iff.mpr
  simp only [validate, State.keyMax, if_neg hsecret, hsome, if_pos hrange]

/-- Past the three common checks the operands are legal for some hash (rule R191). -/
theorem exists_operable (hdigits : ¬(s.cfgDigits.toNat = 0 ∨ 11 ≤ s.cfgDigits.toNat)) : ∃ h, s.Operable h := by
  obtain ⟨h, hsome⟩ := exists_hashOfSelector hhash
  exact ⟨h, by omega, by omega, hsome, by omega, by omega⟩

end

/-! ### The checks of one command's own operand -/

/-- WINDOW as a signed word is negative from 0x80000000 on (rule R23). -/
theorem windowInt_neg_iff (s : State) : s.windowInt < 0 ↔ 2 ^ 31 ≤ s.window.toNat := by
  rw [State.windowInt, BitVec.toInt_eq_toNat_cond]
  have hlt := s.window.isLt
  split <;> omega

theorem timestepNat_eq_zero_iff (s : State) : s.timestepNat = 0 ↔ s.timestep = 0 := BitVec.toNat_inj (y := 0)

section
variable {s : State} {h : Hash} (ho : s.Operable h)
include ho

/-- On legal common operands validation comes down to the command's own operand. -/
theorem validate_eq_own_checks (cmd : Instr) :
    validate cmd s =
      if cmd = .verify ∧ s.windowInt < 0 then .error .invalidWindow
      else if (cmd = .tgen ∨ cmd = .tverify) ∧ s.timestepNat = 0 then .error .invalidTimeStep
      else .ok { key := s.secret, hash := h, digits := s.digits } := by
  obtain ⟨hpos, hfits, hhash, hdpos, hdle⟩ := ho
  have hsecret : ¬(s.keyLen.toNat = 0 ∨ s.key.length < s.keyLen.toNat) := by omega
  have hdigits : ¬(s.digits < 1 ∨ 10 < s.digits) := not_or.mpr ⟨not_lt.mpr hdpos, not_lt.mpr hdle⟩
  simp only [validate, State.keyMax, hhash, if_neg hsecret, if_neg hdigits]

theorem validate_of_window_bad (hw : 2 ^ 31 ≤ s.window.toNat) : validate .verify s = .error .invalidWindow := by
  rw [validate_eq_own_checks ho, if_pos ⟨rfl, (windowInt_neg_iff s).mpr hw⟩]

theorem validate_of_timestep_bad {cmd : Instr} (hcmd : cmd = .tgen ∨ cmd = .tverify) (ht : s.timestep = 0) :
    validate cmd s = .error .invalidTimeStep := by
  have hverify : ¬(cmd = .verify ∧ s.windowInt < 0) := by
    rintro ⟨rfl, -⟩
    exact absurd hcmd (by decide)
  rw [validate_eq_own_checks ho, if_neg hverify, if_pos ⟨hcmd, (timestepNat_eq_zero_iff s).mpr ht⟩]

end

/-- Settles O46: each clause by the check that answers it; past all of them validation passes and ERR stays. -/
theorem errorsInPriorityOrder : Obligations.ErrorsInPriorityOrder := by
  unfold Obligations.ErrorsInPriorityOrder
  intro s i hi entry secretBad hashBad digitsBad
  have raises {e : ErrorKind} (hv : validate i s = .error e) : exec i s = entry e.code := exec_of_validate_error hi hv
  refine ⟨fun hsecret => raises (validate_of_secret_bad i hsecret),
    fun hsecret hhash => raises (validate_of_hash_bad i hsecret hhash),
    fun hsecret hhash hdigits => raises (validate_of_digits_bad i hsecret hhash hdigits), ?_, ?_, ?_⟩
  · rintro hsecret hhash hdigits rfl hw
    obtain ⟨h, ho⟩ := exists_operable hsecret hhash hdigits
    exact raises (validate_of_window_bad ho hw)
  · intro hsecret hhash hdigits hcmd ht
    obtain ⟨h, ho⟩ := exists_operable hsecret hhash hdigits
    exact raises (validate_of_timestep_bad ho hcmd ht)
  · intro hsecret hhash hdigits hw ht
    obtain ⟨h, ho⟩ := exists_operable hsecret hhash hdigits
    have hown : OwnOperandOk i s :=
      ⟨fun hcmd => not_lt.mp (mt (windowInt_neg_iff s).mp (not_le.mpr (hw hcmd))),
        fun hcmd => mt (timestepNat_eq_zero_iff s).mp (ht hcmd)⟩
    exact exec_err_of_validate_ok (validate_of_operable i ho hown)

end Sys2Proof.Machine
end

section
/-! PROOFS. Reset (rule R210), host writes while BUSY (rule R213), and how long STATUS and the results stay (rule R214). -/

namespace Sys2Proof.Machine

/-! ### Host writes while BUSY and reset -/

/-- Settles O11: a BUSY block ignores every write, and the bus answers as for any delivered one. -/
theorem writesWhileBusyAreLost : Obligations.WritesWhileBusyAreLost := by
  unfold Obligations.WritesWhileBusyAreLost
  intro s rest off v hb ha hle
  exact step_write_ignored s rest v ha (by omega) (memWrite_of_busy _ off v hb)

/-- Settles O19: the step is `resetBlock`, which leaves BUSY = 0, so the engine's turn after it has nothing to run. -/
theorem resetDiscardsEverything : Obligations.ResetDiscardsEverything := by
  unfold Obligations.ResetDiscardsEverything
  intro s rest
  refine ⟨(s.withAgenda rest).resetBlock, step_of_event _ .reset rest rfl, rfl, fun hnext => ?_⟩
  rw [step_of_engineNext _ hnext]
  exact engineTurn_of_idle rfl

/-! ### STATUS and the results -/

/-- STATUS and the result registers CODE_LEN, CODE and DELTA are in t what they are in s. -/
def State.KeepsStatusAndResults (s t : State) : Prop :=
  t.busy = s.busy ∧ t.done = s.done ∧ t.matched = s.matched ∧ t.err = s.err ∧ t.codeLen = s.codeLen ∧
    t.code = s.code ∧ t.delta = s.delta

theorem hostRead_keepsStatusAndResults (s : State) (width off : Nat) :
    s.KeepsStatusAndResults (s.hostRead width off) := by
  rw [State.hostRead]
  split <;> exact ⟨rfl, rfl, rfl, rfl, rfl, rfl, rfl⟩

/-- A host write keeps STATUS and the results, unless it is a word write at offset 0 (rules R62, R63). -/
theorem hostWrite_keepsStatusAndResults_or_cmd (s : State) (width off : Nat) (v : Word) :
    s.KeepsStatusAndResults (s.hostWrite width off v) ∨ (width = 4 ∧ off = 0) := by
  obtain h | ⟨hwidth, ha, -, h⟩ := hostWrite_cases s width off v <;> rw [h]
  · exact .inl ⟨rfl, rfl, rfl, rfl, rfl, rfl, rfl⟩
  · obtain hm | ⟨-, hoff, -⟩ | ⟨-, -, _, _, _, _, _, _, _, _, _, _, -, hm⟩ := memWrite_cases s off v ha
    · rw [hm]
      exact .inl ⟨rfl, rfl, rfl, rfl, rfl, rfl, rfl⟩
    · exact .inr ⟨hwidth, hoff⟩
    · rw [hm]
      exact .inl ⟨rfl, rfl, rfl, rfl, rfl, rfl, rfl⟩

/-- Settles O52: with BUSY = 0 the engine's turn does nothing, so only a host write at CMD or a reset is left to change
STATUS or a result. -/
theorem resultsStayUntilNextIssue : Obligations.ResultsStayUntilNextIssue := by
  unfold Obligations.ResultsStayUntilNextIssue
  intro s t hidle h
  obtain ⟨u, hu, -, hturn⟩ | ⟨e, rest, hagenda, hevent⟩ := step_cases s
  · have hkeeps : s.KeepsStatusAndResults u := by
      obtain rfl | rfl := hu <;> exact ⟨rfl, rfl, rfl, rfl, rfl, rfl, rfl⟩
    obtain ⟨hbusy, -⟩ | ⟨-, h'⟩ := hturn
    · obtain ⟨hsame, -⟩ := hkeeps
      exact absurd (hbusy.symm.trans (hsame.trans hidle)) (by decide)
    · obtain rfl := Host.Outcome.next.inj (h.symm.trans h')
      exact .inl hkeeps
  · obtain ⟨width, off, -, h'⟩ | ⟨width, off, v, rfl, h'⟩ | ⟨rfl, -⟩ := hevent
    · obtain rfl := Host.Outcome.next.inj (h.symm.trans h')
      exact .inl (hostRead_keepsStatusAndResults (s.withAgenda rest) width off)
    · obtain rfl := Host.Outcome.next.inj (h.symm.trans h')
      obtain hkeeps | ⟨rfl, rfl⟩ := hostWrite_keepsStatusAndResults_or_cmd (s.withAgenda rest) width off v
      · exact .inl hkeeps
      · exact .inr (.inl ⟨v, rest, hagenda⟩)
    · exact .inr (.inr ⟨rest, hagenda⟩)

end Sys2Proof.Machine
end
